-- ==== Sys2Proof/Word.lean ====
section
/-! DEFINITION. The word types of the block: bytes, the 16-bit checksum, the 32-bit payload integers (spec 00_scope R9). -/

namespace Sys2Proof

/-- A byte, 8 bits, unsigned value 0 to 255 (R9). -/
abbrev Byte := BitVec 8

/-- A 16-bit value: checksums and `i16` payload fields (R9, R242). -/
abbrev Half := BitVec 16

/-- A 32-bit value: `i32` payload fields (R242). -/
abbrev Word := BitVec 32

end Sys2Proof
end

