-- ==== Sys2Proof/Machine/Bytes.lean ====
section
/-! DEFINITION. Byte order and bit order: big-endian multi-byte values (spec 20_memory R62, 44_payloads R242), the two's
complement reading of a field (R242), the low nine bits of a count (R103). -/

namespace Sys2Proof.Machine

/-- High byte of a 16-bit value, `v[15:8]` (R103). -/
def hiByte (v : Half) : Byte := (v >>> 8).setWidth 8

/-- Low byte of a 16-bit value, `v[7:0]` (R103). -/
def loByte (v : Half) : Byte := v.setWidth 8

/-- `{hi, lo}` (R9). -/
def halfOf (hi lo : Byte) : Half := (hi.setWidth 16 <<< 8) ||| lo.setWidth 16

/-- The two bytes of a 16-bit value, most significant first (R62). -/
def be16 (v : Half) : List Byte := [hiByte v, loByte v]

/-- The four bytes of a 32-bit value, most significant first (R62, R242). -/
def be32 (v : Word) : List Byte :=
  [(v >>> 24).setWidth 8, (v >>> 16).setWidth 8, (v >>> 8).setWidth 8, v.setWidth 8]

/-- `b0 * 2^24 + b1 * 2^16 + b2 * 2^8 + b3` (R242). -/
def wordOf (b0 b1 b2 b3 : Byte) : Word :=
  (b0.setWidth 32 <<< 24) ||| (b1.setWidth 32 <<< 16) ||| (b2.setWidth 32 <<< 8) ||| b3.setWidth 32

/-- Reads a `u8` field off the front of a payload (R242). -/
def take8 : List Byte → Option (Byte × List Byte)
  | b :: r => some (b, r)
  | [] => none

/-- Reads a big-endian 16-bit field off the front of a payload (R242). -/
def take16 : List Byte → Option (Half × List Byte)
  | b0 :: b1 :: r => some (halfOf b0 b1, r)
  | _ => none

/-- Reads a big-endian 32-bit field off the front of a payload (R242). -/
def take32 : List Byte → Option (Word × List Byte)
  | b0 :: b1 :: b2 :: b3 :: r => some (wordOf b0 b1 b2 b3, r)
  | _ => none

/-- The signed value of an `i16` field, two's complement (R242). -/
def signed16 (v : Half) : Int := v.toInt

/-- The signed value of an `i32` field, two's complement (R242). -/
def signed32 (v : Word) : Int := v.toInt

/-- A length as the one-byte length field, `u8(n)` (R103 (d)). -/
def lenByte (n : Nat) : Byte := BitVec.ofNat 8 n

end Sys2Proof.Machine
end

