-- ==== Sys2Proof/Syntax.lean ====
section
/-! DEFINITION. The instructions: one constructor per row of spec/opcode_table.json, in the table's order. The autonomous
steps and reset have no encoding (spec 30_encoding R102) and are events (Config.lean), not instructions. -/

namespace Sys2Proof

/-- The 18 fields after the command id of a get-values response, in the order and widths of R244. The fields hold the wire
values; `Machine/Payload.lean` reads them as signed integers with their scale factors. -/
structure Values where
  tempMosfet : Half
  tempMotor : Half
  avgMotorCurrent : Word
  avgInputCurrent : Word
  avgId : Word
  avgIq : Word
  dutyCycle : Half
  rpm : Word
  inputVoltage : Half
  ampHours : Word
  ampHoursCharged : Word
  wattHours : Word
  wattHoursCharged : Word
  tachometer : Word
  tachometerAbs : Word
  fault : Byte
  pidPos : Word
  controllerId : Byte
deriving DecidableEq, Repr

/-- A firmware version response: major and minor (R245). -/
structure FwVersion where
  major : Byte
  minor : Byte
deriving DecidableEq, Repr

/-- The instructions of the block (`opcode_table.json`, 26 rows). -/
inductive Instr where
  /-- STAT_READ (R274). -/
  | statRead
  /-- CRC_INIT (R135). -/
  | crcInit
  /-- CRC_BYTE b (R136). -/
  | crcByte (b : Byte)
  /-- CRC_READ (R137). -/
  | crcRead
  /-- TX_FRAME p, a payload of any length (R152). -/
  | txFrame (payload : List Byte)
  /-- RX_START (R172). -/
  | rxStart
  /-- RX_READ (R184). -/
  | rxRead
  /-- RESERVED_7 (R101). -/
  | reserved7
  /-- RESERVED_8 (R101). -/
  | reserved8
  /-- RESERVED_9 (R101). -/
  | reserved9
  /-- RESERVED_A (R101). -/
  | reservedA
  /-- RESERVED_B (R101). -/
  | reservedB
  /-- RESERVED_C (R101). -/
  | reservedC
  /-- RESERVED_D (R101). -/
  | reservedD
  /-- RESERVED_E (R101). -/
  | reservedE
  /-- RESERVED_F (R101). -/
  | reservedF
  /-- FRAME_SHORT: a short frame from the peer with its payload and its checksum field (R92 to R95). -/
  | frameShort (payload : List Byte) (crc : Half)
  /-- FRAME_LONG: a long frame from the peer, its two-byte length and whatever follows it (R96). -/
  | frameLong (len : Half) (rest : List Byte)
  /-- UART_CHAR: one well-formed character with data byte `d` on the receive line (R91). -/
  | uartChar (d : Byte)
  /-- CMD_FW_VERSION: the request, or the response with its two fields (R245). -/
  | cmdFwVersion (response : Option FwVersion)
  /-- CMD_GET_VALUES: the request, or the response with its fields (R246, R244). -/
  | cmdGetValues (response : Option Values)
  /-- CMD_SET_DUTY with the `i32` duty field (R247). -/
  | cmdSetDuty (duty : Word)
  /-- CMD_SET_CURRENT with the `i32` current field (R248). -/
  | cmdSetCurrent (current : Word)
  /-- CMD_SET_BRAKE_CURRENT with the `i32` current field (R249). -/
  | cmdSetBrakeCurrent (current : Word)
  /-- CMD_SET_RPM with the `i32` rpm field (R250). -/
  | cmdSetRpm (rpm : Word)
  /-- CMD_KEEPALIVE (R251). -/
  | cmdKeepalive
deriving DecidableEq, Repr

end Sys2Proof
end

