-- ==== Sys2Proof/Machine/Payload.lean ====
section
/-! DEFINITION. The payload formats the block carries (spec 44_payloads): the bytes of every request and response the command
table lists, their parsing, and the signed and scaled reading of the get-values fields. The block never reads a payload
(42_deframer R190); these functions are the host's and the peer's side of the wire contract. -/

namespace Sys2Proof.Machine

/-- The fields of a get-values response after the command id, big-endian, in the order of R244: 58 bytes. -/
def valuesBytes (v : Values) : List Byte :=
  be16 v.tempMosfet ++ (be16 v.tempMotor ++ (be32 v.avgMotorCurrent ++ (be32 v.avgInputCurrent ++
  (be32 v.avgId ++ (be32 v.avgIq ++ (be16 v.dutyCycle ++ (be32 v.rpm ++ (be16 v.inputVoltage ++
  (be32 v.ampHours ++ (be32 v.ampHoursCharged ++ (be32 v.wattHours ++ (be32 v.wattHoursCharged ++
  (be32 v.tachometer ++ (be32 v.tachometerAbs ++ (v.fault :: (be32 v.pidPos ++ [v.controllerId]))))))))))))))))

/-- Reads the fields of a get-values response off the bytes after the command id; none unless there are exactly 58 (R244). -/
def valuesOf (s : List Byte) : Option Values := do
  let (tempMosfet, s) ← take16 s
  let (tempMotor, s) ← take16 s
  let (avgMotorCurrent, s) ← take32 s
  let (avgInputCurrent, s) ← take32 s
  let (avgId, s) ← take32 s
  let (avgIq, s) ← take32 s
  let (dutyCycle, s) ← take16 s
  let (rpm, s) ← take32 s
  let (inputVoltage, s) ← take16 s
  let (ampHours, s) ← take32 s
  let (ampHoursCharged, s) ← take32 s
  let (wattHours, s) ← take32 s
  let (wattHoursCharged, s) ← take32 s
  let (tachometer, s) ← take32 s
  let (tachometerAbs, s) ← take32 s
  let (fault, s) ← take8 s
  let (pidPos, s) ← take32 s
  let (controllerId, s) ← take8 s
  if s = [] then
    some { tempMosfet, tempMotor, avgMotorCurrent, avgInputCurrent, avgId, avgIq, dutyCycle, rpm, inputVoltage, ampHours,
           ampHoursCharged, wattHours, wattHoursCharged, tachometer, tachometerAbs, fault, pidPos, controllerId }
  else none

/-- Payload of a firmware version request (none) or response (R245). -/
def fwVersionPayload : Option FwVersion → List Byte
  | none => [0x00]
  | some v => [0x00, v.major, v.minor]

/-- Payload of a get-values request (none) or response (R246, R244). -/
def getValuesPayload : Option Values → List Byte
  | none => [0x04]
  | some v => 0x04 :: valuesBytes v

/-- Payload of set duty (R247). -/
def setDutyPayload (duty : Word) : List Byte := 0x05 :: be32 duty

/-- Payload of set current (R248). -/
def setCurrentPayload (current : Word) : List Byte := 0x06 :: be32 current

/-- Payload of set brake current (R249). -/
def setBrakeCurrentPayload (current : Word) : List Byte := 0x07 :: be32 current

/-- Payload of set rpm (R250). -/
def setRpmPayload (rpm : Word) : List Byte := 0x08 :: be32 rpm

/-- Payload of the keepalive (R251). -/
def keepalivePayload : List Byte := [0x1E]

/-- A command with one `i32` field: four bytes and nothing after them (R247 to R250). -/
def oneWord (c : Word → Instr) : List Byte → Option Instr
  | [b0, b1, b2, b3] => some (c (wordOf b0 b1 b2 b3))
  | _ => none

/-- The bytes after the id `0x00`: none for a request, two for a response (R245). -/
def parseFwVersion : List Byte → Option Instr
  | [] => some (.cmdFwVersion none)
  | [major, minor] => some (.cmdFwVersion (some { major, minor }))
  | _ => none

/-- The bytes after the id `0x04`: none for a request, 58 for a response (R246, R244). -/
def parseGetValues : List Byte → Option Instr
  | [] => some (.cmdGetValues none)
  | s => (valuesOf s).map fun v => .cmdGetValues (some v)

/-- Reads a command payload by its first byte, the command id (R104, R240); none for an id the table does not list (93 U21)
or a length its row does not have. -/
def parsePayload : List Byte → Option Instr
  | [] => none
  | id :: s =>
    match id.toNat with
    | 0x00 => parseFwVersion s
    | 0x04 => parseGetValues s
    | 0x05 => oneWord .cmdSetDuty s
    | 0x06 => oneWord .cmdSetCurrent s
    | 0x07 => oneWord .cmdSetBrakeCurrent s
    | 0x08 => oneWord .cmdSetRpm s
    | 0x1E => if s = [] then some .cmdKeepalive else none
    | _ => none

/-- A physical quantity as R242 gives it: the signed integer of the field and the scale it is divided by. Which floating-point
format divides them is the host's (93 U9). -/
structure Scaled where
  num : Int
  scale : Nat
deriving DecidableEq, Repr

/-- Request-side scale of set duty: `duty = duty_fraction * 100000` (R240, R243). -/
def dutyRequestScale : Nat := 100000

/-- Request-side scale of set current and set brake current: `current = amps * 1000` (R240, R243). -/
def currentRequestScale : Nat := 1000

/-- The scaled fields of a get-values response in the order of R244, with the scale factors of R243. The fields without a scale
(`avg_id`, `avg_iq`, the tachometers, `fault`, `controller_id`) are not quantities and are not listed. -/
def scaledFields (v : Values) : List Scaled :=
  [ ⟨signed16 v.tempMosfet, 10⟩, ⟨signed16 v.tempMotor, 10⟩, ⟨signed32 v.avgMotorCurrent, 100⟩,
    ⟨signed32 v.avgInputCurrent, 100⟩, ⟨signed16 v.dutyCycle, 1000⟩, ⟨signed32 v.rpm, 1⟩,
    ⟨signed16 v.inputVoltage, 10⟩, ⟨signed32 v.ampHours, 10000⟩, ⟨signed32 v.ampHoursCharged, 10000⟩,
    ⟨signed32 v.wattHours, 10000⟩, ⟨signed32 v.wattHoursCharged, 10000⟩, ⟨signed32 v.pidPos, 1000000⟩ ]

end Sys2Proof.Machine
end

