-- ==== Sys2Proof/Config.lean ====
section
/-! DEFINITION. The parameters of the block (spec 00_scope R6) and its boundary: the events that reach it from outside or
from its own agents (R8). A parameter the spec leaves OPEN is an opaque constant with no body: nothing can evaluate it. -/

namespace Sys2Proof

/-- The four encodings of `opcode_table.json` (R102), each with its own decoder (R90). -/
inductive Format where
  /-- HOSTOP4: a host operation code and its operand bytes (R100). -/
  | hostOp
  /-- FRAME_BYTE0: the bytes of a frame from the peer (R92, R96). -/
  | frame
  /-- CHAR10: one character on the receive line (R91), in a two-byte container. Log entry 29. -/
  | char
  /-- PAYLOAD_BYTE0: a command payload (R104, R240). -/
  | payload
deriving DecidableEq, Repr, Inhabited

/-- What can happen next: one step of one agent (R8), or reset (R300). Log entries 1 and 15. -/
inductive Event where
  /-- A message in one of the four encodings: a host operation, a frame or a character from the peer, a payload. -/
  | message (format : Format) (bytes : List Byte)
  /-- Framer step (R154). -/
  | txEmit
  /-- Framer step (R156). -/
  | txFinish
  /-- One bit time of `txd` (R214). -/
  | utxBit
  /-- One bit time of `rxd` with its sample (R220). -/
  | urxBit (sample : Bool)
  /-- Deframer step (R176). -/
  | rxPop
  /-- Deframer step (R174). -/
  | rxLinkErr
  /-- The timebase's next tick falls due; it is counted by a later `rxTick` (R182). -/
  | tickDue
  /-- Timebase step: a tick is counted (R180). -/
  | rxTick
  /-- The reset event (R300). -/
  | reset
deriving DecidableEq, Repr, Inhabited

/-- The values of parameter `RX_TICK_ORDER` (R6, R182). -/
inductive TickOrder where
  | either
  | popFirst
  | tickFirst
deriving DecidableEq, Repr, Inhabited

namespace Config

/-- `START_SHORT` (R6). -/
def startShort : Byte := 0x02
/-- `START_LONG` (R6). -/
def startLong : Byte := 0x03
/-- `END_MARK` (R6). -/
def endMark : Byte := 0x03
/-- `FRAME_OVERHEAD` (R6). -/
def frameOverhead : Nat := 5
/-- `MAX_PAYLOAD` (R6, decision D1, conflict C1). -/
def maxPayload : Nat := 255
/-- `FRAME_MAX`, the size in bytes of `TXFRAME` and of `RXBUF` (R6). -/
def frameMax : Nat := 260
/-- `RX_TIMEOUT_MS`, the timeout budget in ticks (R6). -/
def rxTimeout : BitVec 7 := 100
/-- `CRC_POLY` (R6). -/
def crcPoly : Half := 0x1021
/-- `CRC_INIT`, the value before the first byte (R6). -/
def crcInit : Half := 0x0000

/-- `RX_FIFO_DEPTH` is this many bytes more than the one the spec demands (R6, D12); OPEN, so it has no body. Log entry 14. -/
opaque rxFifoExtra : Nat

/-- `RX_FIFO_DEPTH`: at least 1 (R6, D12). -/
def rxFifoDepth : Nat := rxFifoExtra + 1

/-- `RX_TICK_ORDER` (R6, R182, D21); OPEN. Log entry 15. -/
opaque rxTickOrder : TickOrder

/-- `BAUD` less one, bits per second (R6, D24); OPEN, and no rule reads it (R210). Log entry 16. -/
opaque baudLessOne : Nat

/-- `BAUD`: positive (D24). -/
def baud : Nat := baudLessOne + 1

/-- The free environment: which event comes next when nothing is waiting in the inbox. Any enabled step of any agent may be
next (R8, U23), and nothing is assumed of the peer or of the host (U15). Log entry 2. -/
opaque environment : Nat → Event

end Config

end Sys2Proof
end

