-- ==== Sys2Proof/Machine/Codec.lean ====
section
/-! DEFINITION. The reference functions of the packet codec: encode (spec 41_framer R150), check_frame and decode (spec
42_deframer R170, R171), and the 10-bit character of the serial line (spec 30_encoding R91). Pure; the machine's own
steps are in Framer.lean, Deframer.lean and Uart.lean. -/

namespace Sys2Proof.Machine

/-- The bytes of a short frame with a given checksum field: `[0x02, n] ++ payload ++ [crc_hi, crc_lo, 0x03]` (R92). -/
def frameBytes (payload : List Byte) (crc : Half) : List Byte :=
  Config.startShort :: lenByte payload.length :: (payload ++ be16 crc ++ [Config.endMark])

/-- The frame of a payload of at most 255 bytes, its checksum over the payload only (R92, R150). -/
def encodeFrame (payload : List Byte) : List Byte := frameBytes payload (crc16 payload)

/-- `encode(p)`: the frame, or none for the error `UnsupportedFrame` when the payload is longer than 255 bytes (R150). -/
def encodePayload (payload : List Byte) : Option (List Byte) :=
  if payload.length ≤ Config.maxPayload then some (encodeFrame payload) else none

/-- A verdict of `check_frame` or `decode` (R170, R171). -/
inductive Verdict where
  | ok (payload : List Byte)
  | timeout
  | unsupportedFrame
  | checksumMismatch (computed received : Half)
  | malformedLength
deriving DecidableEq, Repr

/-- `check_frame(f)` for a frame whose length is `f[1] + 5` (R170): the end marker is tested before the checksum. -/
def checkFrame (f : List Byte) : Verdict :=
  let n := (f.getD 1 0).toNat
  let payload := (f.drop 2).take n
  let computed := crc16 payload
  let received := halfOf (f.getD (n + 2) 0) (f.getD (n + 3) 0)
  if f.getD (n + 4) 0 ≠ Config.endMark then .malformedLength
  else if computed ≠ received then .checksumMismatch computed received
  else .ok payload

/-- `decode(s)` for the finite byte sequence one receive operation sees: the verdict and how many bytes are consumed (R171). -/
def decodeStream (s : List Byte) : Verdict × Nat :=
  match s with
  | [] => (.timeout, 0)
  | [_] => (.timeout, 1)
  | start :: len :: _ =>
    if start ≠ Config.startShort then (.unsupportedFrame, 2)
    else
      let total := len.toNat + Config.frameOverhead
      if s.length < total then (.timeout, s.length) else (checkFrame (s.take total), total)

/-- The 10-bit character of a byte, first-sent bit in bit 0: `{1, b[7:0], 0}`, that is `512 + 2 * b` (R91). -/
def charWord (b : Byte) : BitVec 10 := 0x200 ||| (b.setWidth 10 <<< 1)

/-- The line levels of a 10-bit character, first bit time first (R91). -/
def charSamples (w : BitVec 10) : List Bool := (List.range 10).map w.getLsbD

/-- The data byte of a 10-bit character, bits 8:1 (R91). -/
def charData (w : BitVec 10) : Byte := (w >>> 1).setWidth 8

end Sys2Proof.Machine
end

