-- ==== Sys2Proof/WellFormed.lean ====
section
/-! DEFINITION. Which instructions are well formed: what an encoding can hold (spec 30_encoding). Only FRAME_SHORT has a bound on
its operands: its payload fits the one-byte length field and its checksum field is the checksum of that payload. -/

namespace Sys2Proof

/-- A short frame's payload length fits its length field (R92, R93). -/
abbrev PayloadFits (payload : List Byte) : Prop := payload.length ≤ Config.maxPayload

/-- A short frame's checksum field holds `crc16` of its payload (R94). -/
abbrev ChecksumHolds (payload : List Byte) (crc : Half) : Prop := crc = Machine.crc16 payload

/-- An instruction its encoding can hold. TX_FRAME takes a payload of any length (R100, R152); every other operand fills its
field. -/
def WellFormed (i : Instr) : Bool :=
  match i with
  | .frameShort payload crc => decide (PayloadFits payload ∧ ChecksumHolds payload crc)
  | .statRead => true
  | .crcInit => true
  | .crcByte _ => true
  | .crcRead => true
  | .txFrame _ => true
  | .rxStart => true
  | .rxRead => true
  | .reserved7 => true
  | .reserved8 => true
  | .reserved9 => true
  | .reservedA => true
  | .reservedB => true
  | .reservedC => true
  | .reservedD => true
  | .reservedE => true
  | .reservedF => true
  | .frameLong _ _ => true
  | .uartChar _ => true
  | .cmdFwVersion _ => true
  | .cmdGetValues _ => true
  | .cmdSetDuty _ => true
  | .cmdSetCurrent _ => true
  | .cmdSetBrakeCurrent _ => true
  | .cmdSetRpm _ => true
  | .cmdKeepalive => true

end Sys2Proof
end

