-- ==== Sys2Proof/Decode.lean ====
section
/-! DEFINITION. The decoders, one for each encoding of the block (spec 30_encoding R90, R102), total on any bytes and rejecting by
name; then the encoder; then the reading of an opcode-table word. -/

namespace Sys2Proof

open Machine

/-- Why a message is not the encoding of an instruction. -/
inductive DecodeError where
  /-- The message holds no byte. -/
  | empty
  /-- The first byte of a host message is no 4-bit code (R100). -/
  | codeTooWide (code : Byte)
  /-- CRC_BYTE without its operand byte (R100, R103 (e)). -/
  | missingOperand
  /-- Bytes after the last operand. -/
  | trailingBytes
  /-- A frame that ends before its declared length (R171 (1), (3): `Timeout`). -/
  | truncated
  /-- A start byte that is no form of R99. -/
  | unsupportedStart (start : Byte)
  /-- A byte other than `0x03` at the declared end (R99, R170). -/
  | wrongEndMark
  /-- A checksum field that is not the payload's checksum (R99, R170). -/
  | checksumMismatch (computed received : Half)
  /-- A character container that is not two bytes, or holds more than 10 bits. Log entry 29. -/
  | notTenBits
  /-- A character whose start bit is 1 (R91). -/
  | badStartBit
  /-- A character whose stop bit is 0 (R91, R221). -/
  | badStopBit
  /-- A payload that is no row of the command table (R240, 93 U21). -/
  | notACommand
deriving DecidableEq, Repr

/-- An operation without operands: nothing may follow its code (R100). -/
def noOperand (i : Instr) (operands : List Byte) : Except DecodeError Instr :=
  if operands = [] then .ok i else .error .trailingBytes

/-- The operand of CRC_BYTE: one byte (R103 (e)). -/
def oneByte : List Byte → Except DecodeError Instr
  | [] => .error .missingOperand
  | [b] => .ok (.crcByte b)
  | _ => .error .trailingBytes

/-- HOSTOP4: the operation code in the first byte, the operand bytes after it (R100; 95_test_vectors Part 3). -/
def decodeHostOp : List Byte → Except DecodeError Instr
  | [] => .error .empty
  | code :: operands =>
    match code.toNat with
    | 0x0 => noOperand .statRead operands
    | 0x1 => noOperand .crcInit operands
    | 0x2 => oneByte operands
    | 0x3 => noOperand .crcRead operands
    | 0x4 => .ok (.txFrame operands)
    | 0x5 => noOperand .rxStart operands
    | 0x6 => noOperand .rxRead operands
    | 0x7 => noOperand .reserved7 operands
    | 0x8 => noOperand .reserved8 operands
    | 0x9 => noOperand .reserved9 operands
    | 0xA => noOperand .reservedA operands
    | 0xB => noOperand .reservedB operands
    | 0xC => noOperand .reservedC operands
    | 0xD => noOperand .reservedD operands
    | 0xE => noOperand .reservedE operands
    | 0xF => noOperand .reservedF operands
    | _ => .error (.codeTooWide code)

/-- A short frame by the reference function `decode` (R171); the frame must be the whole message. -/
def decodeShort (s : List Byte) : Except DecodeError Instr :=
  match decodeStream s with
  | (.ok payload, n) => if n = s.length then .ok (.frameShort payload (crc16 payload)) else .error .trailingBytes
  | (.timeout, _) => .error .truncated
  | (.malformedLength, _) => .error .wrongEndMark
  | (.checksumMismatch computed received, _) => .error (.checksumMismatch computed received)
  | (.unsupportedFrame, _) => .error (.unsupportedStart (s.getD 0 0))

/-- A long frame: start byte, two-byte big-endian length, and the rest, whose layout the source does not state (R96). -/
def decodeLong : List Byte → Except DecodeError Instr
  | _ :: hi :: lo :: rest => .ok (.frameLong (halfOf hi lo) rest)
  | _ => .error .truncated

/-- FRAME_BYTE0: the start byte selects the form (R97, R99). -/
def decodeFrame (s : List Byte) : Except DecodeError Instr :=
  match s with
  | [] => .error .empty
  | start :: _ =>
    if start = Config.startShort then decodeShort s
    else if start = Config.startLong then decodeLong s
    else .error (.unsupportedStart start)

/-- The 10-bit value a two-byte container holds; none if it holds more. The bit order is that of R91 and R102. The container is the
model's: DESIGN CHOICE, two bytes, the low byte first, the upper six bits of the second zero. Log entry 29. -/
def charContainer : List Byte → Option (BitVec 10)
  | [lo, hi] => if hi.toNat < 4 then some ((halfOf hi lo).setWidth 10) else none
  | _ => none

/-- CHAR10: start bit 0 in bit 0, stop bit 1 in bit 9, the data between them (R91). -/
def decodeChar (s : List Byte) : Except DecodeError Instr :=
  match charContainer s with
  | none => .error .notTenBits
  | some w =>
    if w.getLsbD 0 then .error .badStartBit
    else if w.getLsbD 9 then .ok (.uartChar (charData w))
    else .error .badStopBit

/-- PAYLOAD_BYTE0: the first byte is the command id (R104, R240). -/
def decodePayload (s : List Byte) : Except DecodeError Instr :=
  match parsePayload s with
  | some i => .ok i
  | none => .error .notACommand

/-- The decoder of each encoding (R90). -/
def decode : Format → List Byte → Except DecodeError Instr
  | .hostOp, s => decodeHostOp s
  | .frame, s => decodeFrame s
  | .char, s => decodeChar s
  | .payload, s => decodePayload s

/-- The encoding an instruction's row of the opcode table belongs to (R102). -/
def formatOf : Instr → Format
  | .statRead => .hostOp
  | .crcInit => .hostOp
  | .crcByte _ => .hostOp
  | .crcRead => .hostOp
  | .txFrame _ => .hostOp
  | .rxStart => .hostOp
  | .rxRead => .hostOp
  | .reserved7 => .hostOp
  | .reserved8 => .hostOp
  | .reserved9 => .hostOp
  | .reservedA => .hostOp
  | .reservedB => .hostOp
  | .reservedC => .hostOp
  | .reservedD => .hostOp
  | .reservedE => .hostOp
  | .reservedF => .hostOp
  | .frameShort _ _ => .frame
  | .frameLong _ _ => .frame
  | .uartChar _ => .char
  | .cmdFwVersion _ => .payload
  | .cmdGetValues _ => .payload
  | .cmdSetDuty _ => .payload
  | .cmdSetCurrent _ => .payload
  | .cmdSetBrakeCurrent _ => .payload
  | .cmdSetRpm _ => .payload
  | .cmdKeepalive => .payload

/-- The bytes of a 10-bit character in its container: DESIGN CHOICE, two bytes, the low byte first. Log entry 29. -/
def charBytes (w : BitVec 10) : List Byte := [w.setWidth 8, (w >>> 8).setWidth 8]

/-- The bytes of an instruction in its encoding, from the tables of 30_encoding (R91, R92, R96, R100) and 44_payloads. -/
def encode : Instr → List Byte
  | .statRead => [0x0]
  | .crcInit => [0x1]
  | .crcByte b => [0x2, b]
  | .crcRead => [0x3]
  | .txFrame payload => 0x4 :: payload
  | .rxStart => [0x5]
  | .rxRead => [0x6]
  | .reserved7 => [0x7]
  | .reserved8 => [0x8]
  | .reserved9 => [0x9]
  | .reservedA => [0xA]
  | .reservedB => [0xB]
  | .reservedC => [0xC]
  | .reservedD => [0xD]
  | .reservedE => [0xE]
  | .reservedF => [0xF]
  | .frameShort payload crc => frameBytes payload crc
  | .frameLong len rest => Config.startLong :: (be16 len ++ rest)
  | .uartChar d => charBytes (charWord d)
  | .cmdFwVersion response => fwVersionPayload response
  | .cmdGetValues response => getValuesPayload response
  | .cmdSetDuty duty => setDutyPayload duty
  | .cmdSetCurrent current => setCurrentPayload current
  | .cmdSetBrakeCurrent current => setBrakeCurrentPayload current
  | .cmdSetRpm rpm => setRpmPayload rpm
  | .cmdKeepalive => keepalivePayload

/-- An opcode-table word as a message. The four encodings share their words (the byte `0x02` is CRC_BYTE, a short frame's start
byte, and a payload byte), and a bare word does not say which decoder it is meant for: a word of one byte is read as a host
operation where it is a 4-bit code and as a payload otherwise; a word of two bytes is a character. Operand bytes are zero.
Log entries 5 and 29. -/
def tableMessage (nbits w : Nat) : Option (Format × List Byte) :=
  if nbits ≤ 8 then
    if w < 16 then some (.hostOp, BitVec.ofNat 8 w :: (if w = 2 then [0] else []))
    else if w < 256 then some (.payload, [BitVec.ofNat 8 w])
    else none
  else if nbits ≤ 16 then
    if w < 65536 then some (.char, [BitVec.ofNat 8 w, BitVec.ofNat 8 (w / 256)]) else none
  else none

/-- The instruction the decoders read from an opcode-table word. -/
def decodeTableWord (nbits w : Nat) : Option Instr :=
  match tableMessage nbits w with
  | some (f, s) =>
    match decode f s with
    | .ok i => some i
    | .error _ => none
  | none => none

end Sys2Proof
end

