-- ==== Sys2Proof/Machine/State.lean ====
section
/-! DEFINITION. The state of the block as plain data (spec 10_state R20 to R45), its reset value (R50, R300), and the reasons a
step can stop. -/

namespace Sys2Proof.Machine

/-- `TXSTATE` (R24). -/
inductive TxState where
  | idle
  | sending
deriving DecidableEq, Repr

/-- `RXSTATE` (R37); encoding 3 is never taken and is left out of the type (93 U14). -/
inductive RxState where
  | idle
  | receiving
  | done
deriving DecidableEq, Repr

/-- The status codes 0 to 5 (60_exceptions R260); 6 and 7 are never produced and are left out of the type (93 U13). -/
inductive Status where
  | ok
  | transportError
  | timeout
  | unsupportedFrame
  | checksumMismatch
  | malformedLength
deriving DecidableEq, Repr

/-- What RX_READ returns (42_deframer R184). -/
inductive RxResult where
  /-- Outside `RX_DONE`: the state alone. -/
  | stateOnly (state : RxState)
  /-- `OK`: the payload and the two checksums. -/
  | okPayload (payload : List Byte) (computed received : Half)
  /-- `ChecksumMismatch`: the two checksums. -/
  | mismatch (computed received : Half)
  /-- Any other status, alone. -/
  | failed (status : Status)
deriving DecidableEq, Repr

/-- The answer of a host operation (R10 "`return v` gives the result of a host operation to the host"). -/
inductive Answer where
  /-- No result: the operation returns nothing, or none was issued since reset. -/
  | nothing
  /-- STAT_READ: `STATUS` (R274). -/
  | statusView (v : Byte)
  /-- CRC_READ: `CRC` (R137). -/
  | crcValue (v : Half)
  /-- TX_FRAME and RX_START: a status (R152, R172). -/
  | status (v : Status)
  /-- RX_READ: the receive result (R184). -/
  | receive (r : RxResult)
deriving DecidableEq, Repr

/-- Why the machine can stop with a fault. No rule of the spec reads or writes such an index (20_memory R61, R67); both reasons
are raised only in states that no run reaches. -/
inductive Fault where
  /-- A buffer index that holds no value was read (R67). Raised by TX_EMIT, RX_POP and RX_READ through `readByte`. SAFE: the
  model stops where the spec gives no value. -/
  | noValue (index : Nat)
  /-- A buffer index outside 0 to 259 was written (R61). Raised by RX_POP and TX_FRAME through `memWrite`. SAFE. -/
  | outsideBuffer (index : Nat)
deriving DecidableEq, Repr

/-- Why a step can refuse. -/
inductive Refusal where
  /-- An instruction without a meaning in the model, by its mnemonic. Raised by `exec` only. SAFE. -/
  | notModelled (mnemonic : String)
  /-- A host message that is the encoding of no operation of R100 (no code, a wider code, a missing or surplus operand). Raised
  by the reading of a message. SAFE: the host binding cannot issue it (R101, decision D7). Log entry 7. -/
  | notAnOperation (bytes : List Byte)
  /-- A character container that is not two bytes of ten bits. Raised by the reading of a message. SAFE. Log entries 7 and 29. -/
  | notACharacter (bytes : List Byte)
deriving DecidableEq, Repr

/-- A byte buffer: index and byte, indices strictly rising; an index that is not listed holds no value (R67). -/
abbrev Memory := List Host.Cell

/-- The whole state. The first 22 fields are the spec's (R20); the last four are the model's own (log entries 1, 2, 8, 15). -/
structure State where
  /-- `CRC` (R22). -/
  crc : Half
  /-- `TXSTATE` (R24). -/
  txstate : TxState
  /-- `TXFRAME`, indices 0 to 259 (R25). -/
  txframe : Memory
  /-- `TXTOTAL` (R26). -/
  txtotal : BitVec 9
  /-- `TXPOS` (R27). -/
  txpos : BitVec 9
  /-- `UTXSR` (R28). -/
  utxsr : BitVec 10
  /-- `UTXN` (R29). -/
  utxn : BitVec 4
  /-- `txd` (R30). -/
  txd : Bool
  /-- `URXSR` (R32). -/
  urxsr : Byte
  /-- `URXN` (R33). -/
  urxn : BitVec 4
  /-- `RXFIFO`, oldest byte first (R34). -/
  rxfifo : List Byte
  /-- `FERR` (R35). -/
  ferr : Bool
  /-- `OVR` (R36). -/
  ovr : Bool
  /-- `RXSTATE` (R37). -/
  rxstate : RxState
  /-- `RXBUF`, indices 0 to 259 (R38). -/
  rxbuf : Memory
  /-- `RXCNT` (R39). -/
  rxcnt : BitVec 9
  /-- `RXLEN` (R40). -/
  rxlen : Byte
  /-- `RXTOTAL` (R41). -/
  rxtotal : BitVec 9
  /-- `RXTIMER` (R42). -/
  rxtimer : BitVec 7
  /-- `RXERR` (R43). -/
  rxerr : Status
  /-- `CRCCALC` (R44). -/
  crccalc : Half
  /-- `CRCRECV` (R45). -/
  crcrecv : Half
  /-- The model's own: the answer of the last host operation. Log entry 8. -/
  answer : Answer
  /-- The model's own: a tick is due and not yet counted (R182). Log entry 15. -/
  tickDue : Bool
  /-- The model's own: the events still to be taken, oldest first. Log entry 1. -/
  inbox : List Event
  /-- The model's own: how many events the free environment has supplied. Log entry 2. -/
  envPos : Nat
deriving DecidableEq, Repr

/-- The state after reset: every element of R50 at the value its table gives; the model's own fields empty. -/
def State.reset : State where
  crc := 0x0000
  txstate := .idle
  txframe := []
  txtotal := 0
  txpos := 0
  utxsr := 0x3FF
  utxn := 0
  txd := true
  urxsr := 0x00
  urxn := 0
  rxfifo := []
  ferr := false
  ovr := false
  rxstate := .idle
  rxbuf := []
  rxcnt := 0
  rxlen := 0
  rxtotal := 0
  rxtimer := 0
  rxerr := .ok
  crccalc := 0x0000
  crcrecv := 0x0000
  answer := .nothing
  tickDue := false
  inbox := []
  envPos := 0

end Sys2Proof.Machine
end

