-- ==== Sys2Proof/Machine/Ops.lean ====
section
/-! DEFINITION. The named operations every meaning is made of: the byte buffers (spec 20_memory R60, R64, R67), the queue
RXFIFO (R34), ending a receive operation with a status (60_exceptions R268), starting afresh (R269, 42_deframer R172), and the
answer to the host (R10). -/

namespace Sys2Proof.Machine

/-- The outcome of a meaning. -/
abbrev Result := Host.Outcome State Fault Refusal

/-- Goes on from a next state; a fault or a refusal stays. -/
def andThen (r : Result) (f : State → Result) : Result :=
  match r with
  | .next s => f s
  | .fault e => .fault e
  | .refused e => .refused e

/-- A result that may be a fault, used by a meaning. -/
def orFault {α : Type} (r : Except Fault α) (f : α → Result) : Result :=
  match r with
  | .ok a => f a
  | .error e => .fault e

/-- The byte a buffer holds at an index, none where it holds no value (R67). -/
def Memory.read : Memory → Nat → Option Byte
  | [], _ => none
  | (k, v) :: m, a => if a = k then some v else Memory.read m a

/-- Stores one byte and keeps the indices strictly rising. -/
def Memory.write : Memory → Nat → Byte → Memory
  | [], a, b => [(a, b)]
  | (k, v) :: m, a, b =>
    if a < k then (a, b) :: (k, v) :: m
    else if a = k then (a, b) :: m
    else (k, v) :: Memory.write m a b

/-- Stores a byte sequence at consecutive indices (R10 `MemWrite`). -/
def Memory.writeBytes : Memory → Nat → List Byte → Memory
  | m, _, [] => m
  | m, i, b :: bs => Memory.writeBytes (Memory.write m i b) (i + 1) bs

/-- The canonical form of a buffer: indices strictly rising and below 260 (R60). An unlisted index reads as no value, so no
entry can equal what an unlisted index reads as. -/
def Memory.wf (m : Memory) : Bool :=
  decide ((m.map Prod.fst).Pairwise (· < ·)) && m.all fun c => decide (c.1 < Config.frameMax)

/-- Reads one byte; an index that holds no value is a fault (R67). -/
def readByte (m : Memory) (i : Nat) : Except Fault Byte :=
  match Memory.read m i with
  | some b => .ok b
  | none => .error (.noValue i)

/-- `MemRead(buf, i, n)` (R10). -/
def memRead (m : Memory) (i : Nat) : Nat → Except Fault (List Byte)
  | 0 => .ok []
  | n + 1 =>
    match readByte m i with
    | .error e => .error e
    | .ok b =>
      match memRead m (i + 1) n with
      | .error e => .error e
      | .ok bs => .ok (b :: bs)

/-- `MemWrite(buf, i, n, v)` (R10), inside the 260 indices of the buffer (R61). -/
def memWrite (m : Memory) (i : Nat) (bs : List Byte) : Except Fault Memory :=
  if i + bs.length ≤ Config.frameMax then .ok (Memory.writeBytes m i bs) else .error (.outsideBuffer (i + bs.length - 1))

/-- The buffer that holds exactly a byte sequence at indices 0 and up, and no other value (R67). -/
def Memory.holding (bs : List Byte) : Memory := Memory.writeBytes [] 0 bs

/-- Whether a queue of capacity `extra + 1` has room for one more byte (R34). -/
def hasRoom : List Byte → Nat → Bool
  | [], _ => true
  | _ :: _, 0 => false
  | _ :: q, n + 1 => hasRoom q n

/-- A received byte enters the queue at its tail, or is dropped with `OVR` set when the queue is full (R34, R222). -/
def pushByte (b : Byte) (s : State) : State :=
  if hasRoom s.rxfifo Config.rxFifoExtra then { s with rxfifo := s.rxfifo ++ [b] } else { s with ovr := true }

/-- `raise X(info)` (R268): the one way a receive operation ends with an error. `info` is given by ChecksumMismatch only. -/
def raise (x : Status) (info : Option (Half × Half)) (s : State) : State :=
  match info with
  | none => { s with rxerr := x, rxstate := .done }
  | some (computed, received) => { s with rxerr := x, crccalc := computed, crcrecv := received, rxstate := .done }

/-- What an accepted RX_START writes, the recovery from any status (R172, R269). `RXBUF` holds no value afterwards, since every
index is at or above `RXCNT = 0` (R67, log entry 12); `RXFIFO` is kept. -/
def beginReceive (s : State) : State :=
  { s with
    rxcnt := 0, rxlen := 0, rxtotal := 0, rxtimer := 0,
    rxerr := .ok, crccalc := 0x0000, crcrecv := 0x0000,
    ferr := false, ovr := false,
    rxbuf := [],
    rxstate := .receiving }

/-- Gives a host operation's result to the host (R10). -/
def reply (a : Answer) (s : State) : State := { s with answer := a }

/-- Takes the oldest event off the inbox. -/
def dropEvent (s : State) : State := { s with inbox := s.inbox.tail }

/-- Counts one event supplied by the free environment. -/
def nextEnv (s : State) : State := { s with envPos := s.envPos + 1 }

/-- Reset (R300): every element of the block takes its reset value. What is still to come, the inbox and the environment's
counter, is outside the block and stays. -/
def resetBlock (s : State) : State := { State.reset with inbox := s.inbox, envPos := s.envPos }

end Sys2Proof.Machine
end

