-- ==== Sys2Proof/Machine/Operands.lean ====
section
/-! DEFINITION. Operand assembly (spec 30_encoding R103): the declared total length, the received checksum, the payload slice,
and the character a frame byte becomes. -/

namespace Sys2Proof.Machine

/-- `RXTOTAL = zext_9(RXBUF[1]) + 5` (R103 (a)). -/
def declaredTotal (len : Byte) : BitVec 9 := len.setWidth 9 + 5

/-- `TXTOTAL = n + 5` in 9 bits (R26, R152). -/
def frameTotal (n : Nat) : BitVec 9 := BitVec.ofNat 9 (n + Config.frameOverhead)

/-- The payload slice of `RXBUF`, indices 2 to `RXLEN + 1` (R178). -/
def payloadSlice (s : State) : Except Fault (List Byte) := memRead s.rxbuf 2 s.rxlen.toNat

/-- `{RXBUF[RXLEN + 2], RXBUF[RXLEN + 3]}` (R45, R103 (b)). -/
def receivedChecksum (s : State) : Except Fault Half :=
  match readByte s.rxbuf (s.rxlen.toNat + 2) with
  | .error e => .error e
  | .ok hi =>
    match readByte s.rxbuf (s.rxlen.toNat + 3) with
    | .error e => .error e
    | .ok lo => .ok (halfOf hi lo)

/-- Writes one bit of the receive shift register, `URXSR[i] <- b` (R220). -/
def putBit (v : Byte) (i : Nat) (b : Bool) : Byte :=
  (v &&& ~~~(1#8 <<< i)) ||| ((BitVec.ofBool b).setWidth 8 <<< i)

end Sys2Proof.Machine
end

