-- ==== Sys2Proof/Machine/Framer.lean ====
section
/-! DEFINITION. The framer (spec 41_framer): TX_FRAME and the autonomous steps TX_EMIT and TX_FINISH. -/

namespace Sys2Proof.Machine

/-- The whole of TX_FRAME (R152), shared by the commands that send a request: the length test, the busy test, then the frame
built in `TXFRAME` in the same step. Indices at or above `TXTOTAL` hold no value afterwards (R67, log entry 12). -/
def sendFrame (payload : List Byte) (s : State) : Result :=
  if Config.maxPayload < payload.length then .next (reply (.status .unsupportedFrame) s)
  else if s.txstate = .sending then .next (reply (.status .transportError) s)
  else
    orFault (memWrite [] 0 (encodeFrame payload)) fun m =>
      .next (reply (.status .ok)
        { s with txframe := m, txtotal := frameTotal payload.length, txpos := 0, txstate := .sending })

/-- TX_FRAME p (R152). -/
def execTxFrame (payload : List Byte) (s : State) : Result := sendFrame payload s

/-- TX_EMIT can be taken (R154). -/
def txEmitEnabled (s : State) : Bool :=
  decide (s.txstate = .sending) && decide (s.txpos < s.txtotal) && decide (s.utxn = 0)

/-- TX_EMIT (R154): the next frame byte goes to the transmitter as a 10-bit character. Not enabled: not taken (log entry 3). -/
def txEmit (s : State) : Result :=
  if txEmitEnabled s then
    orFault (readByte s.txframe s.txpos.toNat) fun b =>
      .next { s with utxsr := charWord b, utxn := 10, txpos := s.txpos + 1 }
  else .next s

/-- TX_FINISH can be taken (R156). -/
def txFinishEnabled (s : State) : Bool :=
  decide (s.txstate = .sending) && decide (s.txpos = s.txtotal) && decide (s.utxn = 0)

/-- TX_FINISH (R156): the last stop bit has been driven. Not enabled: not taken (log entry 3). -/
def txFinish (s : State) : Result :=
  if txFinishEnabled s then .next { s with txstate := .idle } else .next s

end Sys2Proof.Machine
end

