-- ==== Sys2Proof/Machine/Flags.lean ====
section
/-! DEFINITION. The flags: the STATUS view (spec 10_state R46) and the codes of RXERR, TXSTATE and RXSTATE (R24, R37, R43, R260). -/

namespace Sys2Proof.Machine

/-- `TXBUSY` (R46). -/
def txBusy (s : State) : Bool := decide (s.txstate = .sending)

/-- `RXBUSY` (R46). -/
def rxBusy (s : State) : Bool := decide (s.rxstate = .receiving)

/-- `RXDONE` (R46). -/
def rxDone (s : State) : Bool := decide (s.rxstate = .done)

/-- `RXNE` (R46). -/
def rxNotEmpty (s : State) : Bool := !s.rxfifo.isEmpty

/-- A flag at its bit of `STATUS` (R46). -/
def flagAt (i : Nat) (flag : Bool) : Byte := (BitVec.ofBool flag).setWidth 8 <<< i

/-- `STATUS`: bits 7:6 zero, 5 OVR, 4 FERR, 3 RXNE, 2 RXDONE, 1 RXBUSY, 0 TXBUSY (R46). -/
def statusView (s : State) : Byte :=
  flagAt 0 (txBusy s) ||| flagAt 1 (rxBusy s) ||| flagAt 2 (rxDone s) ||| flagAt 3 (rxNotEmpty s) ||| flagAt 4 s.ferr |||
    flagAt 5 s.ovr

/-- The 3-bit code of a status (R260). -/
def Status.code : Status → BitVec 3
  | .ok => 0
  | .transportError => 1
  | .timeout => 2
  | .unsupportedFrame => 3
  | .checksumMismatch => 4
  | .malformedLength => 5

/-- The encoding of `TXSTATE` (R24). -/
def TxState.code : TxState → BitVec 1
  | .idle => 0
  | .sending => 1

/-- The encoding of `RXSTATE` (R37). -/
def RxState.code : RxState → BitVec 2
  | .idle => 0
  | .receiving => 1
  | .done => 2

/-- A link error is flagged: `FERR = 1` or `OVR = 1` (R174, R175). -/
def linkError (s : State) : Bool := s.ferr || s.ovr

end Sys2Proof.Machine
end

