-- ==== Sys2Proof/Machine/Deframer.lean ====
section
/-! DEFINITION. The deframer (spec 42_deframer): RX_START, RX_READ and the autonomous steps RX_POP, RX_LINKERR and RX_TICK. -/

namespace Sys2Proof.Machine

/-- RX_START (R172): refused while a receive operation is in progress. -/
def execRxStart (s : State) : Result :=
  if s.rxstate = .receiving then .next (reply (.status .transportError) s)
  else .next (reply (.status .ok) (beginReceive s))

/-- RX_READ (R184): the state alone outside `RX_DONE`; the payload on `OK` only. -/
def execRxRead (s : State) : Result :=
  if s.rxstate ≠ .done then .next (reply (.receive (.stateOnly s.rxstate)) s)
  else if s.rxerr = .ok then
    orFault (payloadSlice s) fun payload =>
      .next (reply (.receive (.okPayload payload s.crccalc s.crcrecv)) s)
  else if s.rxerr = .checksumMismatch then .next (reply (.receive (.mismatch s.crccalc s.crcrecv)) s)
  else .next (reply (.receive (.failed s.rxerr)) s)

/-- `header()` (R177), at the second byte: short form or `UnsupportedFrame`. -/
def rxHeader (s : State) : Result :=
  orFault (readByte s.rxbuf 0) fun start =>
    if start = Config.startShort then
      orFault (readByte s.rxbuf 1) fun len => .next { s with rxlen := len, rxtotal := declaredTotal len }
    else .next (raise .unsupportedFrame none s)

/-- `complete()` (R178), at the declared total length: end marker first, then the checksum over the payload slice. -/
def rxComplete (s : State) : Result :=
  orFault (readByte s.rxbuf (s.rxtotal.toNat - 1)) fun last =>
    if last ≠ Config.endMark then .next (raise .malformedLength none s)
    else
      orFault (payloadSlice s) fun payload =>
        orFault (receivedChecksum s) fun received =>
          if crc16 payload = received then
            .next { s with crccalc := crc16 payload, crcrecv := received, rxerr := .ok, rxstate := .done }
          else .next (raise .checksumMismatch (some (crc16 payload, received)) s)

/-- The part of RX_POP after the byte has left the queue (R176): it is stored at `RXCNT`, then judged by position. -/
def takeByte (b : Byte) (s : State) : Result :=
  orFault (memWrite s.rxbuf s.rxcnt.toNat [b]) fun m =>
    if s.rxcnt + 1 = 2 then rxHeader { s with rxbuf := m, rxcnt := s.rxcnt + 1 }
    else if 3 ≤ s.rxcnt + 1 ∧ s.rxcnt + 1 = s.rxtotal then rxComplete { s with rxbuf := m, rxcnt := s.rxcnt + 1 }
    else .next { s with rxbuf := m, rxcnt := s.rxcnt + 1 }

/-- The enabling condition of RX_POP (R176). -/
def rxPopReady (s : State) : Bool := decide (s.rxstate = .receiving) && !s.rxfifo.isEmpty && !linkError s

/-- RX_POP is held back: a tick is due and `RX_TICK_ORDER` is `tick_first` (R182). -/
def popHeldBack (s : State) : Bool := s.tickDue && decide (Config.rxTickOrder = .tickFirst)

/-- RX_POP can be taken (R176, R182). -/
def rxPopEnabled (s : State) : Bool := rxPopReady s && !popHeldBack s

/-- RX_POP (R176). Not enabled: not taken (log entry 3). -/
def rxPop (s : State) : Result :=
  if rxPopEnabled s then
    match s.rxfifo with
    | [] => .next s
    | b :: q => takeByte b { s with rxfifo := q }
  else .next s

/-- RX_LINKERR can be taken (R174). -/
def rxLinkErrEnabled (s : State) : Bool := decide (s.rxstate = .receiving) && linkError s

/-- RX_LINKERR (R174): `raise TransportError`. Not enabled: not taken (log entry 3). -/
def rxLinkErr (s : State) : Result :=
  if rxLinkErrEnabled s then .next (raise .transportError none s) else .next s

/-- The timebase's next tick falls due (R182). -/
def tickFallsDue (s : State) : State := { s with tickDue := true }

/-- RX_TICK is held back: a queued byte can be popped and `RX_TICK_ORDER` is `pop_first` (R182). -/
def tickHeldBack (s : State) : Bool := rxPopReady s && decide (Config.rxTickOrder = .popFirst)

/-- The effect of a counted tick (R180). -/
def countTick (s : State) : State :=
  if s.rxstate = .receiving then
    if s.rxtimer + 1 = Config.rxTimeout then raise .timeout none { s with rxtimer := s.rxtimer + 1 }
    else { s with rxtimer := s.rxtimer + 1 }
  else s

/-- RX_TICK (R180, R182): one tick is counted; under `pop_first` not before the queued bytes. -/
def rxTick (s : State) : Result :=
  if tickHeldBack s then .next s else .next { countTick s with tickDue := false }

/-- RX_POP taken again and again while it is enabled, at most `n` times (R188). -/
def popAll : Nat → State → Result
  | 0, s => .next s
  | n + 1, s => if rxPopEnabled s then andThen (rxPop s) (popAll n) else .next s

end Sys2Proof.Machine
end

