-- ==== Sys2Proof/Machine/Uart.lean ====
section
/-! DEFINITION. The serial UART (spec 43_uart): UTX_BIT, URX_BIT, and a whole character received, which is UART_CHAR. -/

namespace Sys2Proof.Machine

/-- UTX_BIT (R214), one bit time of `txd`; enabled always. -/
def utxBit (s : State) : State :=
  if s.utxn = 0 then { s with txd := true }
  else { s with txd := s.utxsr.getLsbD 0, utxsr := (s.utxsr >>> 1) ||| 0x200, utxn := s.utxn - 1 }

/-- The stop-bit position of a character (R220, R221, R222): a good character is pushed, a bad one is discarded with `FERR` set;
the receiver returns to idle at once. -/
def stopBit (sample : Bool) (s : State) : State :=
  { (if sample then pushByte s.urxsr s else { s with ferr := true }) with urxn := 0 }

/-- URX_BIT (R220), one bit time of `rxd` with its sample; enabled always. -/
def urxBit (sample : Bool) (s : State) : State :=
  if s.urxn = 0 then (if sample then s else { s with urxn := 1 })
  else if s.urxn ≤ 8 then { s with urxsr := putBit s.urxsr (s.urxn.toNat - 1) sample, urxn := s.urxn + 1 }
  else stopBit sample s

/-- The receiver takes a run of samples, one bit time each (R211). -/
def urxSamples (samples : List Bool) (s : State) : State := samples.foldl (fun t x => urxBit x t) s

/-- The peer sends one well-formed character (R91, R105 `PEER:`): its ten samples. -/
def peerByte (b : Byte) (s : State) : State := urxSamples (charSamples (charWord b)) s

/-- UART_CHAR d (R91, accepted by R220): the ten bit times of the character on `rxd`. Log entry 10. -/
def execUartChar (d : Byte) (s : State) : Result := .next (peerByte d s)

end Sys2Proof.Machine
end

