-- ==== Sys2Proof/Machine/Frames.lean ====
section
/-! DEFINITION. Frames arriving from the peer: FRAME_SHORT (spec 30_encoding R92, accepted by 42_deframer R176 to R178) and
FRAME_LONG (R96, R177). -/

namespace Sys2Proof.Machine

/-- One byte from the peer, then RX_POP as long as it is enabled (R188: "with RX_POP taken whenever enabled"). -/
def deliverByte (b : Byte) (s : State) : Result := popAll (peerByte b s).rxfifo.length (peerByte b s)

/-- The peer sends a byte sequence, every character well formed, and RX_POP is taken whenever enabled (R187, R188). One step of
the model; the single samples and pops are events of their own, so every other interleaving is a run too. Log entry 9. -/
def deliver : List Byte → State → Result
  | [], s => .next s
  | b :: bs, s => andThen (deliverByte b s) (deliver bs)

/-- FRAME_SHORT (R92): the frame's bytes arrive. -/
def execFrameShort (payload : List Byte) (crc : Half) (s : State) : Result := deliver (frameBytes payload crc) s

/-- FRAME_LONG (R96): the bytes arrive; by R177 a fresh receive operation ends with UnsupportedFrame at the second one. -/
def execFrameLong (len : Half) (rest : List Byte) (s : State) : Result :=
  deliver (Config.startLong :: (be16 len ++ rest)) s

end Sys2Proof.Machine
end

