-- ==== Sys2Proof/Machine/Commands.lean ====
section
/-! DEFINITION. The command payloads (spec 44_payloads R240 to R251) as the block sees them: a request is a payload the host hands
to TX_FRAME, a response is a payload that arrives from the peer in a frame. The block does not read either (R190). Log entry 11. -/

namespace Sys2Proof.Machine

/-- A response payload arrives from the motor unit in its frame (R92, R241). -/
def receivePayload (payload : List Byte) (s : State) : Result := deliver (encodeFrame payload) s

/-- CMD_FW_VERSION (R245): the request is sent, a response arrives. -/
def execCmdFwVersion (response : Option FwVersion) (s : State) : Result :=
  match response with
  | none => sendFrame (fwVersionPayload none) s
  | some v => receivePayload (fwVersionPayload (some v)) s

/-- CMD_GET_VALUES (R246, R244): the request is sent, a response arrives. -/
def execCmdGetValues (response : Option Values) (s : State) : Result :=
  match response with
  | none => sendFrame (getValuesPayload none) s
  | some v => receivePayload (getValuesPayload (some v)) s

/-- CMD_SET_DUTY (R247). -/
def execCmdSetDuty (duty : Word) (s : State) : Result := sendFrame (setDutyPayload duty) s

/-- CMD_SET_CURRENT (R248). -/
def execCmdSetCurrent (current : Word) (s : State) : Result := sendFrame (setCurrentPayload current) s

/-- CMD_SET_BRAKE_CURRENT (R249). -/
def execCmdSetBrakeCurrent (current : Word) (s : State) : Result := sendFrame (setBrakeCurrentPayload current) s

/-- CMD_SET_RPM (R250). -/
def execCmdSetRpm (rpm : Word) (s : State) : Result := sendFrame (setRpmPayload rpm) s

/-- CMD_KEEPALIVE (R251). -/
def execCmdKeepalive (s : State) : Result := sendFrame keepalivePayload s

end Sys2Proof.Machine
end

