-- ==== Sys2Proof/Machine/CrcUnit.lean ====
section
/-! DEFINITION. The CRC unit's host operations (spec 40_crc R135 to R137). -/

namespace Sys2Proof.Machine

/-- CRC_INIT (R135): `CRC <- 0x0000`; no result. -/
def execCrcInit (s : State) : Result := .next (reply .nothing { s with crc := Config.crcInit })

/-- CRC_BYTE b (R136): `CRC <- crc_step(CRC, b)`; no result. -/
def execCrcByte (b : Byte) (s : State) : Result := .next (reply .nothing { s with crc := crcStep s.crc b })

/-- CRC_READ (R137): `return CRC`. -/
def execCrcRead (s : State) : Result := .next (reply (.crcValue s.crc) s)

end Sys2Proof.Machine
end

