-- ==== Sys2Proof/Machine/StatusUnit.lean ====
section
/-! DEFINITION. STAT_READ (spec 60_exceptions R274) and the reserved operation codes (30_encoding R101). -/

namespace Sys2Proof.Machine

/-- STAT_READ (R274): `return STATUS`; nothing is cleared. -/
def execStatRead (s : State) : Result := .next (reply (.statusView (statusView s)) s)

/-- A reserved code (R101): no operation, no state change, no result. -/
def noOperation (s : State) : Result := .next (reply .nothing s)

/-- RESERVED_7 (R101). -/
def execReserved7 (s : State) : Result := noOperation s
/-- RESERVED_8 (R101). -/
def execReserved8 (s : State) : Result := noOperation s
/-- RESERVED_9 (R101). -/
def execReserved9 (s : State) : Result := noOperation s
/-- RESERVED_A (R101). -/
def execReservedA (s : State) : Result := noOperation s
/-- RESERVED_B (R101). -/
def execReservedB (s : State) : Result := noOperation s
/-- RESERVED_C (R101). -/
def execReservedC (s : State) : Result := noOperation s
/-- RESERVED_D (R101). -/
def execReservedD (s : State) : Result := noOperation s
/-- RESERVED_E (R101). -/
def execReservedE (s : State) : Result := noOperation s
/-- RESERVED_F (R101). -/
def execReservedF (s : State) : Result := noOperation s

end Sys2Proof.Machine
end

