-- ==== Sys2Proof/Machine/Dispatch.lean ====
section
/-! DEFINITION. The dispatch: one arm for each instruction of the opcode table. -/

namespace Sys2Proof.Machine

def exec (i : Instr) (s : State) : Host.Outcome State Fault Refusal :=
  match i with
  -- HOSTOP4
  | .statRead => Sys2Proof.Machine.execStatRead s
  | .crcInit => Sys2Proof.Machine.execCrcInit s
  | .crcByte b => Sys2Proof.Machine.execCrcByte b s
  | .crcRead => Sys2Proof.Machine.execCrcRead s
  | .txFrame payload => Sys2Proof.Machine.execTxFrame payload s
  | .rxStart => Sys2Proof.Machine.execRxStart s
  | .rxRead => Sys2Proof.Machine.execRxRead s
  | .reserved7 => Sys2Proof.Machine.execReserved7 s
  | .reserved8 => Sys2Proof.Machine.execReserved8 s
  | .reserved9 => Sys2Proof.Machine.execReserved9 s
  | .reservedA => Sys2Proof.Machine.execReservedA s
  | .reservedB => Sys2Proof.Machine.execReservedB s
  | .reservedC => Sys2Proof.Machine.execReservedC s
  | .reservedD => Sys2Proof.Machine.execReservedD s
  | .reservedE => Sys2Proof.Machine.execReservedE s
  | .reservedF => Sys2Proof.Machine.execReservedF s
  -- FRAME_BYTE0
  | .frameShort payload crc => Sys2Proof.Machine.execFrameShort payload crc s
  | .frameLong len rest => Sys2Proof.Machine.execFrameLong len rest s
  -- CHAR10
  | .uartChar d => Sys2Proof.Machine.execUartChar d s
  -- PAYLOAD_BYTE0
  | .cmdFwVersion response => Sys2Proof.Machine.execCmdFwVersion response s
  | .cmdGetValues response => Sys2Proof.Machine.execCmdGetValues response s
  | .cmdSetDuty duty => Sys2Proof.Machine.execCmdSetDuty duty s
  | .cmdSetCurrent current => Sys2Proof.Machine.execCmdSetCurrent current s
  | .cmdSetBrakeCurrent current => Sys2Proof.Machine.execCmdSetBrakeCurrent current s
  | .cmdSetRpm rpm => Sys2Proof.Machine.execCmdSetRpm rpm s
  | .cmdKeepalive => Sys2Proof.Machine.execCmdKeepalive s

end Sys2Proof.Machine
end

