-- ==== Sys2Proof/Machine/Events.lean ====
section
/-! DEFINITION. Fetching the next event and taking it: a message is decoded and executed, an autonomous step or reset is taken.
Step.lean only calls these. -/

namespace Sys2Proof.Machine

/-- A message that is the encoding of no instruction. The peer may send any bytes and any bits (93 U15), and the block carries any
payload (93 U21): those still happen. Only a host message that is no operation of R100, and a container that holds no ten bits,
are refused. Log entries 7 and 21. -/
def undecoded (f : Format) (bytes : List Byte) (s : State) : Result :=
  match f with
  | .hostOp => .refused (.notAnOperation bytes)
  | .frame => deliver bytes s
  | .payload => sendFrame bytes s
  | .char =>
    match charContainer bytes with
    | some w => .next (urxSamples (charSamples w) s)
    | none => .refused (.notACharacter bytes)

/-- A message: its instruction is executed (R90). -/
def runMessage (f : Format) (bytes : List Byte) (s : State) : Result :=
  match decode f bytes with
  | .ok i => exec i s
  | .error _ => undecoded f bytes s

/-- One event (R8, R300). -/
def runEvent (e : Event) (s : State) : Result :=
  match e with
  | .message f bytes => runMessage f bytes s
  | .txEmit => txEmit s
  | .txFinish => txFinish s
  | .utxBit => .next (utxBit s)
  | .urxBit sample => .next (urxBit sample s)
  | .rxPop => rxPop s
  | .rxLinkErr => rxLinkErr s
  | .tickDue => .next (tickFallsDue s)
  | .rxTick => rxTick s
  | .reset => .next (resetBlock s)

/-- The next event and the state without it: the oldest of the inbox, or, when nothing waits there, whatever the free environment
supplies (R8, 93 U23). Log entries 1 and 2. -/
def fetchEvent (s : State) : Event × State :=
  match s.inbox with
  | e :: _ => (e, dropEvent s)
  | [] => (Config.environment s.envPos, nextEnv s)

/-- One step: the next event is taken. -/
def runNext (s : State) : Result := runEvent (fetchEvent s).1 (fetchEvent s).2

/-- The opcode-table word placed in front of everything that waits. A word that is no message of any format stands as a host
message, which is then refused. -/
def offerWord (s : State) (nbits w : Nat) : State :=
  match tableMessage nbits w with
  | some (f, bytes) => { s with inbox := .message f bytes :: s.inbox }
  | none => { s with inbox := .message .hostOp [] :: s.inbox }

/-- A run of events in the order given, as the inbox supplies them. -/
def runEvents : List Event → State → Result
  | [], s => .next s
  | e :: es, s => andThen (runEvent e s) (runEvents es)

end Sys2Proof.Machine
end

