-- ==== Sys2Proof/Machine/Step.lean ====
section
/-! DEFINITION. The step function and the placing of an opcode-table word where the step fetches next. -/

namespace Sys2Proof.Machine

/-- One step of the machine: the next event is fetched and taken (spec 00_scope R8). -/
def step (s : State) : Host.Outcome State Fault Refusal := runNext s

/-- `s` with the instruction of an opcode-table word as the very next thing `step` fetches. Log entries 4 and 5. -/
def State.withFetchWord (s : State) (nbits w : Nat) : State := offerWord s nbits w

end Sys2Proof.Machine
end

