-- ==== Sys2Proof/Safety.lean ====
section
/-! DEFINITION. What a safe state and a safe run are: the invariants of spec 10_state R51 with the buffer bounds of 20_memory R61
and R67, clause by clause, and the absence of faults. -/

namespace Sys2Proof.Machine

/-- A buffer holds exactly the indices 0 to `n - 1` (R67: "lists of exactly `RXCNT` and `TXTOTAL` bytes"). -/
abbrev HoldsExactly (m : Memory) (n : Nat) : Prop := m.map Prod.fst = List.range n

/-- R51 (a) to (c), (h), and R67 for `TXFRAME`: the framer and the transmitter. -/
structure TxInv (s : State) : Prop where
  pos_le : s.txpos ≤ s.txtotal
  total_le : s.txtotal.toNat ≤ Config.frameMax
  idle_quiet : s.txstate = .idle → s.utxn = 0 ∧ (s.txtotal = 0 ∨ s.txpos = s.txtotal)
  sending_total : s.txstate = .sending → 5 ≤ s.txtotal
  bits_le : s.utxn ≤ 10
  frame_held : HoldsExactly s.txframe s.txtotal.toNat

/-- While a frame is being sent, `TXFRAME` is the frame of some payload of at most 255 bytes (R152, R153). -/
def FrameInFlight (s : State) : Prop :=
  s.txstate = .sending → ∃ payload : List Byte, payload.length ≤ Config.maxPayload ∧
    s.txframe = Memory.holding (encodeFrame payload) ∧ s.txtotal = frameTotal payload.length

/-- R51 (e) and (f), and R180 ("`CRCCALC` and `CRCRECV` stay `0x0000`"): a receive operation in progress. -/
structure ReceivingInv (s : State) : Prop where
  timer_lt : s.rxtimer < Config.rxTimeout
  err_ok : s.rxerr = .ok
  crcs_zero : s.crccalc = 0 ∧ s.crcrecv = 0
  header : 2 ≤ s.rxcnt → Memory.read s.rxbuf 0 = some Config.startShort ∧ Memory.read s.rxbuf 1 = some s.rxlen ∧
    s.rxtotal = declaredTotal s.rxlen ∧ s.rxcnt < s.rxtotal

/-- R51 (g), and what it leaves unsaid (R69 (b)): a receive operation that ended with `OK` holds the frame of its payload. -/
structure DoneOkInv (s : State) : Prop where
  count : s.rxcnt = s.rxtotal ∧ s.rxtotal = declaredTotal s.rxlen
  start_mark : Memory.read s.rxbuf 0 = some Config.startShort
  end_mark : Memory.read s.rxbuf (s.rxtotal.toNat - 1) = some Config.endMark
  checksum : ∃ payload : List Byte, payloadSlice s = .ok payload ∧ s.crccalc = crc16 payload ∧ s.crcrecv = s.crccalc
  frame : ∃ payload : List Byte, payload.length = s.rxlen.toNat ∧ s.rxbuf = Memory.holding (encodeFrame payload)

/-- R44, R45, R178, R180: the two checksums after an operation that did not end with `OK`. -/
structure DoneErrInv (s : State) : Prop where
  mismatch_differs : s.rxerr = .checksumMismatch → s.crccalc ≠ s.crcrecv
  others_zero : s.rxerr ≠ .checksumMismatch → s.crccalc = 0 ∧ s.crcrecv = 0

/-- R51 (d) to (h), and R67 for `RXBUF`: the receiver and the deframer. -/
structure RxInv (s : State) : Prop where
  count_le : s.rxcnt.toNat ≤ Config.frameMax
  buf_held : HoldsExactly s.rxbuf s.rxcnt.toNat
  bits_le : s.urxn ≤ 9
  fifo_le : s.rxfifo.length ≤ Config.rxFifoDepth
  timer_le : s.rxtimer ≤ Config.rxTimeout
  receiving : s.rxstate = .receiving → ReceivingInv s
  done_ok : s.rxstate = .done → s.rxerr = .ok → DoneOkInv s
  done_err : s.rxstate = .done → s.rxerr ≠ .ok → DoneErrInv s

/-- The invariant of the block: every clause of R51, the buffer bounds of R61, and the two facts about checksums and the frame in
flight that the rules imply. It says nothing of what waits in the inbox. -/
structure Inv (s : State) : Prop where
  tx : TxInv s
  inFlight : FrameInFlight s
  rx : RxInv s

/-- A step that does not stop with a fault (R61: no access is out of range). -/
def StepFaultFree (s : State) : Prop := ∀ f : Fault, step s ≠ .fault f

/-- A run of `k` steps that does not stop with a fault. -/
def RunFaultFree (k : Nat) (s : State) : Prop :=
  match Host.Core.run Sys2Proof.core k s with
  | .fault _ => False
  | _ => True

/-! ### Terms the claims are stated in -/

/-- `RXFIFO` after good characters arrived and none was popped: as many as there was room for, in order (R34, R222). -/
def queueAfter (q arrived : List Byte) : List Byte := q ++ arrived.take (Config.rxFifoDepth - q.length)

/-- `OVR` after good characters arrived and none was popped (R222). -/
def overrunAfter (q arrived : List Byte) (ovr : Bool) : Bool :=
  ovr || decide (Config.rxFifoDepth - q.length < arrived.length)

/-- A receive operation has just been started, with nothing queued, no character half received, no link error, and RX_POP not
held back (the premises of R188). -/
structure FreshReceive (s : State) : Prop where
  receiving : s.rxstate = .receiving
  count : s.rxcnt = 0
  buffer : s.rxbuf = []
  queue : s.rxfifo = []
  between : s.urxn = 0
  noError : s.ferr = false ∧ s.ovr = false
  popFree : popHeldBack s = false

/-- A receive operation that has consumed exactly the bytes `f` and has no verdict yet, with nothing queued, no character half
received, no link error, and RX_POP not held back. A freshly started one is the case of no byte. -/
structure UnderWay (s : State) (f : List Byte) : Prop where
  receiving : s.rxstate = .receiving
  noVerdict : (decodeStream f).1 = .timeout
  count : s.rxcnt.toNat = f.length
  buffer : s.rxbuf = Memory.holding f
  header : ∀ start len : Byte, ∀ r : List Byte, f = start :: len :: r → s.rxlen = len ∧ s.rxtotal = declaredTotal len
  queue : s.rxfifo = []
  between : s.urxn = 0
  noError : s.ferr = false ∧ s.ovr = false
  popFree : popHeldBack s = false

/-- Bytes that arrive now are queued and not consumed: no receive operation is in progress and no character is half received. -/
structure Unattended (s : State) : Prop where
  notReceiving : s.rxstate ≠ .receiving
  between : s.urxn = 0

/-- The status of a verdict of the reference functions (R170, R171, R260). -/
def verdictStatus : Verdict → Status
  | .ok _ => .ok
  | .timeout => .timeout
  | .unsupportedFrame => .unsupportedFrame
  | .checksumMismatch _ _ => .checksumMismatch
  | .malformedLength => .malformedLength

/-- The levels of one character on the line, first bit time first: start 0, data least significant bit first, stop 1 (R91). -/
def charLevels (b : Byte) : List Bool :=
  [false, b.getLsbD 0, b.getLsbD 1, b.getLsbD 2, b.getLsbD 3, b.getLsbD 4, b.getLsbD 5, b.getLsbD 6, b.getLsbD 7, true]

/-- What `txd` carries over a run of events: its level after each bit time (R30, R157). -/
def lineOf : List Event → State → List Bool
  | [], _ => []
  | e :: es, s =>
    match runEvent e s with
    | .next t => if e = .utxBit then t.txd :: lineOf es t else lineOf es t
    | _ => []

/-- The framer's and transmitter's steps for one frame byte after `gap` idle bit times (R154, R214, R216). -/
def byteSchedule (gap : Nat) : List Event := List.replicate gap .utxBit ++ .txEmit :: List.replicate 10 .utxBit

/-- The steps that send one frame, with the given idle bit times before its bytes and after the last one (R157). -/
def frameSchedule (gaps : List Nat) (after : Nat) : List Event :=
  gaps.flatMap byteSchedule ++ List.replicate after .utxBit ++ [.txFinish]

/-- The transmit path of R227 is the same in both states. -/
structure SameTransmit (s t : State) : Prop where
  txstate : t.txstate = s.txstate
  txframe : t.txframe = s.txframe
  txtotal : t.txtotal = s.txtotal
  txpos : t.txpos = s.txpos
  utxsr : t.utxsr = s.utxsr
  utxn : t.utxn = s.utxn
  txd : t.txd = s.txd

/-- The receive result a host can read is the same in both states (R69 (c), R184). -/
structure SameResult (s t : State) : Prop where
  rxstate : t.rxstate = s.rxstate
  rxerr : t.rxerr = s.rxerr
  rxlen : t.rxlen = s.rxlen
  rxbuf : t.rxbuf = s.rxbuf
  crccalc : t.crccalc = s.crccalc
  crcrecv : t.crcrecv = s.crcrecv

/-- The receive path of R227 is the same in both states. -/
structure SameReceive (s t : State) : Prop where
  result : SameResult s t
  urxsr : t.urxsr = s.urxsr
  urxn : t.urxn = s.urxn
  rxfifo : t.rxfifo = s.rxfifo
  ferr : t.ferr = s.ferr
  ovr : t.ovr = s.ovr
  rxcnt : t.rxcnt = s.rxcnt
  rxtotal : t.rxtotal = s.rxtotal
  rxtimer : t.rxtimer = s.rxtimer

/-- What is left after the bytes `all` reached one receive operation, those before `s` included, with RX_POP taken whenever enabled:
the verdict of `decode`, the bytes it consumes, the rest queued as far as there is room (R171, R183, R188). -/
structure Followed (all : List Byte) (s t : State) : Prop where
  consumed : t.rxcnt.toNat = (decodeStream all).2
  queue : t.rxfifo = queueAfter [] (all.drop (decodeStream all).2)
  timer : t.rxtimer = s.rxtimer
  transmit : SameTransmit s t
  accumulator : t.crc = s.crc
  goesOn : (decodeStream all).1 = .timeout → t.rxstate = .receiving ∧ t.rxerr = s.rxerr
  ended : (decodeStream all).1 ≠ .timeout → t.rxstate = .done ∧ t.rxerr = verdictStatus (decodeStream all).1
  payload : ∀ p, (decodeStream all).1 = .ok p → payloadSlice t = .ok p ∧ t.crccalc = crc16 p ∧ t.crcrecv = crc16 p
  mismatch : ∀ computed received, (decodeStream all).1 = .checksumMismatch computed received →
    t.crccalc = computed ∧ t.crcrecv = received

/-- Every element of the block has the value the table of R50 gives it; no index of a buffer holds a value. -/
structure AtReset (s : State) : Prop where
  crc : s.crc = 0x0000
  txstate : s.txstate = .idle
  txframe : ∀ i : Nat, s.txframe.read i = none
  txtotal : s.txtotal = 0
  txpos : s.txpos = 0
  utxsr : s.utxsr = 0x3FF
  utxn : s.utxn = 0
  txd : s.txd = true
  urxsr : s.urxsr = 0x00
  urxn : s.urxn = 0
  rxfifo : s.rxfifo = []
  ferr : s.ferr = false
  ovr : s.ovr = false
  rxstate : s.rxstate = .idle
  rxbuf : ∀ i : Nat, s.rxbuf.read i = none
  rxcnt : s.rxcnt = 0
  rxlen : s.rxlen = 0
  rxtotal : s.rxtotal = 0
  rxtimer : s.rxtimer = 0
  rxerr : s.rxerr = .ok
  crccalc : s.crccalc = 0x0000
  crcrecv : s.crcrecv = 0x0000

/-- The event brings no sample and no byte from the peer: a host operation, or a step of another agent. -/
def bringsNothing : Event → Bool
  | .message .hostOp _ => true
  | .message .frame _ => false
  | .message .char _ => false
  | .message .payload _ => false
  | .txEmit => true
  | .txFinish => true
  | .utxBit => true
  | .urxBit _ => false
  | .rxPop => true
  | .rxLinkErr => true
  | .tickDue => true
  | .rxTick => true
  | .reset => true

/-- The message an instruction is given to the machine in. -/
def messageOf (i : Instr) : Event := .message (formatOf i) (encode i)

/-- A list of bytes with one bit of one byte flipped. -/
def flipBit (s : List Byte) (i k : Nat) : List Byte := s.set i (s.getD i 0 ^^^ (1#8 <<< k))

end Sys2Proof.Machine
end

