-- ==== Sys2Proof/Certificates/Slice0/Obligations.lean ====
section
/-! DEFINITION. The statements for the provers, from the numbered rules of spec/ and, where a docstring says so, from the model's own
conventions. OBLIGATIONS.json lists them. -/

open Sys2Proof Sys2Proof.Machine

/-! ### STAT_READ, the reserved codes, the CRC unit -/

/-- STAT_READ returns the 8-bit view of R46 and changes nothing else; after reset the view is `0x00` (R274, R46). -/
def Obligations.StatReadReturnsStatus : Prop :=
  decode .hostOp [0x0] = .ok .statRead ∧
  ∀ s : State, ∃ v : Byte, exec .statRead s = .next { s with answer := .statusView v } ∧
    (v.getLsbD 0 = true ↔ s.txstate = .sending) ∧
    (v.getLsbD 1 = true ↔ s.rxstate = .receiving) ∧
    (v.getLsbD 2 = true ↔ s.rxstate = .done) ∧
    (v.getLsbD 3 = true ↔ s.rxfifo ≠ []) ∧
    v.getLsbD 4 = s.ferr ∧ v.getLsbD 5 = s.ovr ∧ v.getLsbD 6 = false ∧ v.getLsbD 7 = false ∧
    (s = State.reset → v = 0x00)

/-- A reserved code is no operation: no state change, no result (R101). -/
def Obligations.ReservedCodesDoNothing : Prop :=
  ∀ c ∈ [((0x7 : Byte), Instr.reserved7), (0x8, .reserved8), (0x9, .reserved9), (0xA, .reservedA), (0xB, .reservedB),
    (0xC, .reservedC), (0xD, .reservedD), (0xE, .reservedE), (0xF, .reservedF)],
    decode .hostOp [c.1] = .ok c.2 ∧ ∀ s : State, exec c.2 s = .next { s with answer := .nothing }

/-- CRC_INIT sets `CRC` to zero and changes nothing else, in every state (R135). -/
def Obligations.CrcInitClears : Prop :=
  decode .hostOp [0x1] = .ok .crcInit ∧
  ∀ s : State, exec .crcInit s = .next { s with crc := 0x0000, answer := .nothing }

/-- CRC_BYTE replaces `CRC` by one step of the CRC over its operand byte and changes nothing else, in every state; the step is
the table formula of R131 (R136, R131). -/
def Obligations.CrcByteSteps : Prop :=
  (∀ b : Byte, decode .hostOp [0x2, b] = .ok (.crcByte b)) ∧
  ∀ (b : Byte) (s : State), ∃ c : Half, exec (.crcByte b) s = .next { s with crc := c, answer := .nothing } ∧
    c.toNat = ((crcTab (BitVec.ofNat 8 (((s.crc.toNat >>> 8) ^^^ b.toNat) &&& 0xFF))).toNat ^^^ (s.crc.toNat <<< 8)) % 65536

/-- CRC_READ returns `CRC` and changes nothing else (R137). -/
def Obligations.CrcReadReturnsCrc : Prop :=
  decode .hostOp [0x3] = .ok .crcRead ∧
  State.reset.crc = 0x0000 ∧
  ∀ s : State, exec .crcRead s = .next { s with answer := .crcValue s.crc }

/-- The sequence CRC_INIT, CRC_BYTE for each byte, CRC_READ returns `crc16` of the bytes (R138). -/
def Obligations.CrcSequenceComputesChecksum : Prop :=
  ∀ (bytes : List Byte) (s : State),
    runEvents (messageOf .crcInit :: (bytes.map fun b => messageOf (.crcByte b)) ++ [messageOf .crcRead]) s =
      .next { s with crc := crc16 bytes, answer := .crcValue (crc16 bytes) }

/-- `CRC` is written by CRC_INIT, CRC_BYTE and reset only (R22). -/
def Obligations.OnlyCrcOperationsWriteCrc : Prop :=
  ∀ (e : Event) (s t : State), runEvent e s = .next t → e ≠ .reset →
    (∀ f bytes, e = .message f bytes → decode f bytes ≠ .ok .crcInit ∧ ∀ b, decode f bytes ≠ .ok (.crcByte b)) →
    t.crc = s.crc

/-! ### The checksum function -/

/-- The table-driven step is the bitwise CRC with polynomial `0x1021`, bytes taken most significant bit first, and the check value
over the nine ASCII digits is `0x31C3` (R133). -/
def Obligations.CrcStepIsBitwise : Prop :=
  (∀ (c : Half) (b : Byte), crcStep c b = crcShifts 8 (c ^^^ (b.setWidth 16 <<< 8))) ∧
  crc16 [0x31, 0x32, 0x33, 0x34, 0x35, 0x36, 0x37, 0x38, 0x39] = 0x31C3

/-- `crc16` is linear over bytewise exclusive-or of sequences of equal length (R140 (c)). -/
def Obligations.ChecksumIsLinear : Prop :=
  ∀ a b : List Byte, a.length = b.length → crc16 (List.zipWith (· ^^^ ·) a b) = crc16 a ^^^ crc16 b

/-- The empty sequence has checksum zero, leading zero bytes do not change the checksum, one byte gives its table entry, a
sequence followed by its own checksum, high byte first, has checksum zero, and `crc16` is not injective on any length greater
than 2 (R140 (a), (b), (e), (f), (g)). -/
def Obligations.ChecksumZerosResidueCollisions : Prop :=
  crc16 [] = 0x0000 ∧
  (∀ (n : Nat) (a : List Byte), crc16 (List.replicate n 0x00 ++ a) = crc16 a) ∧
  (∀ b : Byte, crc16 [b] = crcTab b) ∧
  (∀ a : List Byte, crc16 (a ++ [((crc16 a) >>> 8).setWidth 8, (crc16 a).setWidth 8]) = 0x0000) ∧
  crc16 [] = crc16 [0x00] ∧
  ∀ n : Nat, 2 < n → ∃ a b : List Byte, a.length = n ∧ b.length = n ∧ a ≠ b ∧ crc16 a = crc16 b

/-- Flipping exactly one bit of a sequence changes its checksum (R140 (d)). -/
def Obligations.SingleBitChangesChecksum : Prop :=
  ∀ (a : List Byte) (i k : Nat), i < a.length → k < 8 → crc16 (flipBit a i k) ≠ crc16 a

/-! ### Encodings -/

/-- Decoding the encoding of a well-formed instruction gives the instruction back, in the encoding its row belongs to (R90 to R104).
The bytes of a host operation and the two-byte container of a character are the model's (log entries 6 and 29). -/
def Obligations.DecodeOfEncode : Prop :=
  ∀ i : Instr, WellFormed i = true → decode (formatOf i) (encode i) = .ok i

/-- A message that decodes is the encoding of the instruction it decodes to, which is well formed: every message has one
meaning and no bit of it is dropped (R90 to R104). The bytes of a host operation and the two-byte container of a character are the
model's (log entries 6 and 29). -/
def Obligations.EncodeOfDecode : Prop :=
  ∀ (f : Format) (bytes : List Byte) (i : Instr), decode f bytes = .ok i →
    formatOf i = f ∧ encode i = bytes ∧ WellFormed i = true

/-- Words written out from the tables of 30_encoding and 44_payloads decode to the instructions they stand for: host operations of R100,
the line bits `0 0 1 0 0 0 0 0 0 1` of T6, a short frame of T4 and the set-current frame of R248, the long frame of P6 (what
follows its length is any bytes in the model, log entry 20), and the payloads of R245, R248, R251. The bytes of a host operation
and the two-byte container of a character are the model's (log entries 6 and 29). -/
def Obligations.SpecWordsDecode : Prop :=
  decode .hostOp [0x2, 0x04] = .ok (.crcByte 0x04) ∧
  decode .hostOp [0x4, 0x1E] = .ok (.txFrame [0x1E]) ∧
  decode .frame [0x02, 0x02, 0x00, 0x04, 0x40, 0x84, 0x03] = .ok (.frameShort [0x00, 0x04] 0x4084) ∧
  decode .frame [0x02, 0x05, 0x06, 0x00, 0x00, 0x13, 0x88, 0x8B, 0x25, 0x03] =
    .ok (.frameShort [0x06, 0x00, 0x00, 0x13, 0x88] 0x8B25) ∧
  decode .frame [0x03, 0x00, 0x01, 0x04, 0x40, 0x84, 0x03] = .ok (.frameLong 0x0001 [0x04, 0x40, 0x84, 0x03]) ∧
  decode .char [0x04, 0x02] = .ok (.uartChar 0x02) ∧
  decode .payload [0x1E] = .ok .cmdKeepalive ∧
  decode .payload [0x06, 0xFF, 0xFF, 0xFC, 0x18] = .ok (.cmdSetCurrent 0xFFFFFC18) ∧
  decode .payload [0x00, 0x05, 0x03] = .ok (.cmdFwVersion (some { major := 0x05, minor := 0x03 }))

/-- `encode(p)` of R150: for at most 255 bytes the frame of R92, byte by byte; for more the error. -/
def Obligations.EncodeIsTheShortFrame : Prop :=
  ∀ p : List Byte,
    (p.length ≤ 255 → encodePayload p =
      some ([0x02, BitVec.ofNat 8 p.length] ++ p ++ [(crc16 p >>> 8).setWidth 8, (crc16 p).setWidth 8] ++ [0x03])) ∧
    (256 ≤ p.length → encodePayload p = none)

/-- Facts of R151: the length, injectivity, the first, second and last byte of a frame, and `encode([])`. -/
def Obligations.EncodeFacts : Prop :=
  (∀ p : List Byte, p.length ≤ 255 → (encodeFrame p).length = p.length + 5 ∧
    (encodeFrame p)[0]? = some 0x02 ∧ (encodeFrame p)[1]? = some (BitVec.ofNat 8 p.length) ∧
    (encodeFrame p)[p.length + 4]? = some 0x03 ∧ ((encodeFrame p).drop 2).take p.length = p) ∧
  (∀ p q : List Byte, p.length ≤ 255 → q.length ≤ 255 → encodeFrame p = encodeFrame q → p = q) ∧
  encodeFrame [] = [0x02, 0x00, 0x00, 0x00, 0x03]

/-- Round trip of the reference functions, with anything following: `decode(encode(p) ++ rest)` is `OK` with payload `p`, and
exactly the frame is consumed; one byte short it is `Timeout` (R171, R188, R189 (d)). -/
def Obligations.DecodeOfEncodedFrame : Prop :=
  ∀ p rest : List Byte, p.length ≤ 255 →
    decodeStream (encodeFrame p ++ rest) = (.ok p, p.length + 5) ∧
    decodeStream ((encodeFrame p).take (p.length + 4)) = (.timeout, p.length + 4)

/-- Checksum rejection: any single bit flipped in the payload or checksum region of an encoded frame makes decoding fail with
`ChecksumMismatch`, never succeed (R189 (a)). -/
def Obligations.FlippedBitIsRejected : Prop :=
  ∀ (p : List Byte) (i k : Nat), p.length ≤ 255 → 2 ≤ i → i < p.length + 4 → k < 8 →
    ∃ computed received : Half, computed ≠ received ∧
      decodeStream (flipBit (encodeFrame p) i k) = (.checksumMismatch computed received, p.length + 5)

/-- A flipped bit in the terminator gives `MalformedLength`, in the start byte `UnsupportedFrame` (R189 (b)). -/
def Obligations.FlippedMarkerIsRejected : Prop :=
  ∀ (p : List Byte) (k : Nat), p.length ≤ 255 → k < 8 →
    decodeStream (flipBit (encodeFrame p) (p.length + 4) k) = (.malformedLength, p.length + 5) ∧
    decodeStream (flipBit (encodeFrame p) 0 k) = (.unsupportedFrame, 2)

/-- The get-values response: every field at the offset R244 gives it, big-endian, 59 bytes in all. -/
def Obligations.GetValuesLayout : Prop :=
  ∀ v : Values, ∃ s : List Byte, encode (.cmdGetValues (some v)) = s ∧ s.length = 59 ∧ s.take 1 = [0x04] ∧
    (s.drop 1).take 2 = be16 v.tempMosfet ∧ (s.drop 3).take 2 = be16 v.tempMotor ∧
    (s.drop 5).take 4 = be32 v.avgMotorCurrent ∧ (s.drop 9).take 4 = be32 v.avgInputCurrent ∧
    (s.drop 13).take 4 = be32 v.avgId ∧ (s.drop 17).take 4 = be32 v.avgIq ∧
    (s.drop 21).take 2 = be16 v.dutyCycle ∧ (s.drop 23).take 4 = be32 v.rpm ∧
    (s.drop 27).take 2 = be16 v.inputVoltage ∧ (s.drop 29).take 4 = be32 v.ampHours ∧
    (s.drop 33).take 4 = be32 v.ampHoursCharged ∧ (s.drop 37).take 4 = be32 v.wattHours ∧
    (s.drop 41).take 4 = be32 v.wattHoursCharged ∧ (s.drop 45).take 4 = be32 v.tachometer ∧
    (s.drop 49).take 4 = be32 v.tachometerAbs ∧ s[53]? = some v.fault ∧
    (s.drop 54).take 4 = be32 v.pidPos ∧ s[58]? = some v.controllerId

/-- Payload integers are big-endian and two's complement (R242). -/
def Obligations.PayloadIntegersAreSigned : Prop :=
  (∀ b0 b1 : Byte, signed16 (halfOf b0 b1) =
    if b0.toNat < 128 then ((b0.toNat * 256 + b1.toNat : Nat) : Int) else ((b0.toNat * 256 + b1.toNat : Nat) : Int) - 65536) ∧
  (∀ b0 b1 b2 b3 : Byte, signed32 (wordOf b0 b1 b2 b3) =
    if b0.toNat < 128 then ((b0.toNat * 2 ^ 24 + b1.toNat * 2 ^ 16 + b2.toNat * 2 ^ 8 + b3.toNat : Nat) : Int)
    else ((b0.toNat * 2 ^ 24 + b1.toNat * 2 ^ 16 + b2.toNat * 2 ^ 8 + b3.toNat : Nat) : Int) - 2 ^ 32) ∧
  (∀ v : Half, take16 (be16 v) = some (v, [])) ∧ (∀ v : Word, take32 (be32 v) = some (v, []))

/-! ### The framer and the transmitter -/

/-- TX_FRAME, all three outcomes: too long, busy, accepted with the frame built byte by byte (R152), and no index of `TXFRAME` at or
above `TXTOTAL` holding a value (R25, R67; that `TXFRAME` is built from empty is the model's reading of them, log entry 12). -/
def Obligations.TxFrameOutcomes : Prop :=
  (∀ p : List Byte, decode .hostOp (0x4 :: p) = .ok (.txFrame p)) ∧
  ∀ (p : List Byte) (s : State),
    (255 < p.length → exec (.txFrame p) s = .next { s with answer := .status .unsupportedFrame }) ∧
    (p.length ≤ 255 → s.txstate = .sending → exec (.txFrame p) s = .next { s with answer := .status .transportError }) ∧
    (p.length ≤ 255 → s.txstate = .idle → ∃ m : Memory,
      exec (.txFrame p) s = .next { s with txframe := m, txtotal := BitVec.ofNat 9 (p.length + 5), txpos := 0,
                                           txstate := .sending, answer := .status .ok } ∧
      ∀ i : Nat, m.read i =
        ([0x02, BitVec.ofNat 8 p.length] ++ p ++ [(crc16 p >>> 8).setWidth 8, (crc16 p).setWidth 8] ++ [0x03])[i]?)

/-- The commands with one field, and the requests without one, are payloads handed to TX_FRAME: in `TX_IDLE` each is accepted and
its frame is the one of R92 over the payload of R245 to R251; while a frame is being sent each is turned away and changes
nothing. That a command's meaning is TX_FRAME of its payload is the
model's choice (log entry 11). -/
def Obligations.CommandRequestsAreSent : Prop :=
  ∀ (s : State) (w : Word),
    ∀ c ∈ [(Instr.cmdFwVersion none, [(0x00 : Byte)]), (.cmdGetValues none, [0x04]), (.cmdSetDuty w, 0x05 :: be32 w),
      (.cmdSetCurrent w, 0x06 :: be32 w), (.cmdSetBrakeCurrent w, 0x07 :: be32 w), (.cmdSetRpm w, 0x08 :: be32 w),
      (.cmdKeepalive, [0x1E])],
    (s.txstate = .idle → exec c.1 s =
      .next { s with txframe := Memory.holding (encodeFrame c.2), txtotal := BitVec.ofNat 9 (c.2.length + 5),
                     txpos := 0, txstate := .sending, answer := .status .ok }) ∧
    (s.txstate = .sending → exec c.1 s = .next { s with answer := .status .transportError })

/-- TX_EMIT, enabled, loads the character of the byte at `TXPOS` and moves the cursor; nothing else changes (R154). -/
def Obligations.TxEmitLoadsCharacter : Prop :=
  ∀ (s : State) (b : Byte), s.txstate = .sending → s.txpos < s.txtotal → s.utxn = 0 →
    s.txframe.read s.txpos.toNat = some b →
    ∃ w : BitVec 10, runEvent .txEmit s = .next { s with utxsr := w, utxn := 10, txpos := s.txpos + 1 } ∧
      w.getLsbD 9 = true ∧ w.getLsbD 0 = false ∧ ∀ k : Nat, k < 8 → w.getLsbD (k + 1) = b.getLsbD k

/-- TX_FINISH, enabled, makes the framer idle and changes nothing else (R156). -/
def Obligations.TxFinishEndsFrame : Prop :=
  ∀ s : State, s.txstate = .sending → s.txpos = s.txtotal → s.utxn = 0 →
    runEvent .txFinish s = .next { s with txstate := .idle }

/-- An autonomous step that is not enabled is not taken: the event changes nothing (R10, R154, R156, R174, R175, R176). That the
event is then used up is the model's choice (log entry 3). -/
def Obligations.DisabledStepsAreNotTaken : Prop :=
  ∀ s : State,
    (¬(s.txstate = .sending ∧ s.txpos < s.txtotal ∧ s.utxn = 0) → runEvent .txEmit s = .next s) ∧
    (¬(s.txstate = .sending ∧ s.txpos = s.txtotal ∧ s.utxn = 0) → runEvent .txFinish s = .next s) ∧
    (¬(s.rxstate = .receiving ∧ s.rxfifo ≠ [] ∧ s.ferr = false ∧ s.ovr = false) → runEvent .rxPop s = .next s) ∧
    (¬(s.rxstate = .receiving ∧ (s.ferr = true ∨ s.ovr = true)) → runEvent .rxLinkErr s = .next s)

/-- UTX_BIT drives bit 0 of `UTXSR` and shifts a 1 in from the left while a character is going out, and 1 otherwise (R214). -/
def Obligations.UtxBitDrivesLine : Prop :=
  ∀ s : State,
    (s.utxn = 0 → runEvent .utxBit s = .next { s with txd := true }) ∧
    (s.utxn ≠ 0 → ∃ w : BitVec 10,
      runEvent .utxBit s = .next { s with txd := s.utxsr.getLsbD 0, utxsr := w, utxn := s.utxn - 1 } ∧
      w.getLsbD 9 = true ∧ ∀ k : Nat, k < 9 → w.getLsbD k = s.utxsr.getLsbD (k + 1))

/-- Ten UTX_BIT after the load of a byte drive exactly its character: start 0, data least significant first, stop 1 (R91, R214). -/
def Obligations.TenBitsDriveCharacter : Prop :=
  ∀ (b : Byte) (s : State), s.utxsr = charWord b → s.utxn = 10 →
    lineOf (List.replicate 10 .utxBit) s = charLevels b ∧
    runEvents (List.replicate 10 .utxBit) s = .next { s with utxsr := 0x3FF, utxn := 0, txd := true }

/-- What the line carries: after an accepted TX_FRAME p, with any number of idle bit times before each byte and after the last one, the
line carries exactly the characters of `encode(p)` in order with idle ones between and after them, and TX_FINISH is reached
(R157). -/
def Obligations.LineCarriesTheFrame : Prop :=
  ∀ (p : List Byte) (gaps : List Nat) (after : Nat) (s s1 : State), p.length ≤ 255 → s.txstate = .idle → s.utxn = 0 →
    exec (.txFrame p) s = .next s1 → gaps.length = p.length + 5 →
    lineOf (frameSchedule gaps after) s1 =
      (List.zip gaps (encodeFrame p)).flatMap (fun g => List.replicate g.1 true ++ charLevels g.2) ++
        List.replicate after true ∧
    ∃ t : State, runEvents (frameSchedule gaps after) s1 = .next t ∧ t.txstate = .idle ∧ t.utxn = 0 ∧ t.txpos = t.txtotal ∧
      SameReceive s t

/-! ### The receiver -/

/-- URX_BIT, every case of the receiver: idle, start bit, data bit, good stop bit with room, overrun, framing error (R220, R221,
R222). -/
def Obligations.UrxBitCases : Prop :=
  ∀ (x : Bool) (s : State),
    (s.urxn = 0 → x = true → runEvent (.urxBit x) s = .next s) ∧
    (s.urxn = 0 → x = false → runEvent (.urxBit x) s = .next { s with urxn := 1 }) ∧
    (1 ≤ s.urxn → s.urxn ≤ 8 → ∃ v : Byte, runEvent (.urxBit x) s = .next { s with urxsr := v, urxn := s.urxn + 1 } ∧
      ∀ k : Nat, k < 8 → v.getLsbD k = if k + 1 = s.urxn.toNat then x else s.urxsr.getLsbD k) ∧
    (s.urxn = 9 → x = false → runEvent (.urxBit x) s = .next { s with ferr := true, urxn := 0 }) ∧
    (s.urxn = 9 → x = true → s.rxfifo.length < Config.rxFifoDepth →
      runEvent (.urxBit x) s = .next { s with rxfifo := s.rxfifo ++ [s.urxsr], urxn := 0 }) ∧
    (s.urxn = 9 → x = true → Config.rxFifoDepth ≤ s.rxfifo.length →
      runEvent (.urxBit x) s = .next { s with ovr := true, urxn := 0 })

/-- UART_CHAR always completes as the ten samples of its character; with no character half received it is the PEER_BYTE of R229 (b):
the byte is pushed if there is room, else `OVR` is set (R220, R222, R229). That the ten URX_BIT steps are one step of the model,
from any state of the receiver, is the model's choice (log entry 10). -/
def Obligations.UartCharIsReceived : Prop :=
  ∀ (d : Byte) (s : State),
    runEvents ((charLevels d).map Event.urxBit) s = exec (.uartChar d) s ∧
    (∃ t : State, exec (.uartChar d) s = .next t) ∧
    (s.urxn = 0 → s.rxfifo.length < Config.rxFifoDepth →
      exec (.uartChar d) s = .next { s with urxsr := d, rxfifo := s.rxfifo ++ [d] }) ∧
    (s.urxn = 0 → Config.rxFifoDepth ≤ s.rxfifo.length →
      exec (.uartChar d) s = .next { s with urxsr := d, ovr := true })

/-- A line held at 0 gives one framing error every ten bit times and pushes nothing; a line held at 1 gives nothing (R223). -/
def Obligations.BreakGivesFramingErrors : Prop :=
  ∀ (n : Nat) (s : State), s.urxn = 0 →
    runEvents (List.replicate (10 * (n + 1)) (.urxBit false)) s = .next { s with urxsr := 0x00, ferr := true } ∧
    runEvents (List.replicate n (.urxBit true)) s = .next s

/-! ### The deframer -/

/-- RX_START: refused while receiving, otherwise every element it names is cleared, every index of `RXBUF` holds no value, and
`RXFIFO` and everything else is kept (R172). -/
def Obligations.RxStartOutcomes : Prop :=
  decode .hostOp [0x5] = .ok .rxStart ∧
  ∀ s : State,
    (s.rxstate = .receiving → exec .rxStart s = .next { s with answer := .status .transportError }) ∧
    (s.rxstate ≠ .receiving → ∃ m : Memory, (∀ i : Nat, m.read i = none) ∧ exec .rxStart s = .next
      { s with rxcnt := 0, rxlen := 0, rxtotal := 0, rxtimer := 0, rxerr := .ok, crccalc := 0x0000, crcrecv := 0x0000,
               ferr := false, ovr := false, rxbuf := m, rxstate := .receiving, answer := .status .ok })

/-- RX_READ: what it returns in each state, and that it writes nothing else (R184). -/
def Obligations.RxReadOutcomes : Prop :=
  decode .hostOp [0x6] = .ok .rxRead ∧
  ∀ s : State,
    (s.rxstate ≠ .done → exec .rxRead s = .next { s with answer := .receive (.stateOnly s.rxstate) }) ∧
    (∀ p : List Byte, s.rxstate = .done → s.rxerr = .ok → memRead s.rxbuf 2 s.rxlen.toNat = .ok p →
      exec .rxRead s = .next { s with answer := .receive (.okPayload p s.crccalc s.crcrecv) }) ∧
    (s.rxstate = .done → s.rxerr = .checksumMismatch →
      exec .rxRead s = .next { s with answer := .receive (.mismatch s.crccalc s.crcrecv) }) ∧
    (s.rxstate = .done → s.rxerr ≠ .ok → s.rxerr ≠ .checksumMismatch →
      exec .rxRead s = .next { s with answer := .receive (.failed s.rxerr) })

/-- In every state that meets the invariant RX_READ completes, and on `OK` the payload `p` it returns has exactly `RXLEN` bytes, both
checksums it returns are `crc16(p)`, and the bytes consumed were exactly `encode(p)` (R184, R51 (g), R69 (b)). -/
def Obligations.RxReadCompletes : Prop :=
  ∀ s : State, Inv s →
    (∃ r : RxResult, exec .rxRead s = .next { s with answer := .receive r }) ∧
    (s.rxstate = .done → s.rxerr = .ok → ∃ p : List Byte, p.length = s.rxlen.toNat ∧
      s.rxbuf = Memory.holding (encodeFrame p) ∧ s.rxcnt.toNat = (encodeFrame p).length ∧
      exec .rxRead s = .next { s with answer := .receive (.okPayload p (crc16 p) (crc16 p)) })

/-- `raise X(info)`: the status, the two checksums where `info` gives them, and `RX_DONE`; nothing else changes (R268). -/
def Obligations.RaiseEndsOperation : Prop :=
  ∀ (x : Status) (computed received : Half) (s : State),
    raise x none s = { s with rxerr := x, rxstate := .done } ∧
    raise .checksumMismatch (some (computed, received)) s =
      { s with rxerr := .checksumMismatch, crccalc := computed, crcrecv := received, rxstate := .done }

/-- RX_LINKERR, enabled in `RX_RECEIVING` with a link error flagged, ends the operation with `TransportError` and keeps everything
else; the two checksums stay zero (R174). -/
def Obligations.RxLinkErrRaises : Prop :=
  ∀ s : State, s.rxstate = .receiving → s.ferr = true ∨ s.ovr = true →
    runEvent .rxLinkErr s = .next { s with rxerr := .transportError, rxstate := .done } ∧
    (Inv s → s.crccalc = 0x0000 ∧ s.crcrecv = 0x0000)

/-- RX_POP, enabled and with what it has accumulated held at indices 0 and up: the byte leaves the queue and is stored; the second
byte selects the form; the byte that completes the declared length is judged, end marker first, then the checksum (R176,
R177, R178). -/
def Obligations.RxPopOutcomes : Prop :=
  ∀ (s : State) (b : Byte) (q f : List Byte), s.rxstate = .receiving → s.rxfifo = b :: q → s.ferr = false → s.ovr = false →
    popHeldBack s = false → s.rxbuf = Memory.holding f → f.length = s.rxcnt.toNat → f.length < 260 →
    (f.length = 0 → runEvent .rxPop s = .next { s with rxfifo := q, rxbuf := Memory.holding [b], rxcnt := 1 }) ∧
    (f = [0x02] → runEvent .rxPop s = .next { s with rxfifo := q, rxbuf := Memory.holding [0x02, b], rxcnt := 2,
                                                     rxlen := b, rxtotal := b.setWidth 9 + 5 }) ∧
    (∀ start : Byte, f = [start] → start ≠ 0x02 → runEvent .rxPop s =
      .next { s with rxfifo := q, rxbuf := Memory.holding [start, b], rxcnt := 2, rxerr := .unsupportedFrame,
                     rxstate := .done }) ∧
    (2 ≤ f.length → s.rxcnt + 1 ≠ s.rxtotal → runEvent .rxPop s =
      .next { s with rxfifo := q, rxbuf := Memory.holding (f ++ [b]), rxcnt := s.rxcnt + 1 }) ∧
    (2 ≤ f.length → s.rxcnt + 1 = s.rxtotal → s.rxtotal.toNat = s.rxlen.toNat + 5 → b ≠ 0x03 → runEvent .rxPop s =
      .next { s with rxfifo := q, rxbuf := Memory.holding (f ++ [b]), rxcnt := s.rxcnt + 1, rxerr := .malformedLength,
                     rxstate := .done }) ∧
    (∀ (p : List Byte) (hi lo : Byte), s.rxcnt + 1 = s.rxtotal → s.rxtotal.toNat = s.rxlen.toNat + 5 → b = 0x03 →
      p.length = s.rxlen.toNat → f.drop 2 = p ++ [hi, lo] → runEvent .rxPop s =
      .next { s with rxfifo := q, rxbuf := Memory.holding (f ++ [b]), rxcnt := s.rxcnt + 1, crccalc := crc16 p,
                     crcrecv := halfOf hi lo, rxstate := .done,
                     rxerr := if crc16 p = halfOf hi lo then .ok else .checksumMismatch })

/-- RX_POP stores one byte: every index of `RXBUF` other than `RXCNT` reads as before, index `RXCNT` reads as the head of the queue,
and the queue loses its head (R176). -/
def Obligations.RxPopStoresOneByte : Prop :=
  ∀ (s t : State) (b : Byte) (q : List Byte), s.rxstate = .receiving → s.rxfifo = b :: q → s.ferr = false → s.ovr = false →
    popHeldBack s = false → runEvent .rxPop s = .next t →
    t.rxfifo = q ∧ t.rxcnt = s.rxcnt + 1 ∧ t.rxbuf.read s.rxcnt.toNat = some b ∧
    (∀ i : Nat, i ≠ s.rxcnt.toNat → t.rxbuf.read i = s.rxbuf.read i) ∧
    SameTransmit s t ∧ t.crc = s.crc ∧ t.answer = s.answer ∧ t.rxtimer = s.rxtimer

/-- RX_TICK: outside `RX_RECEIVING` it changes no element of the block; in it the timer advances, and the tick that brings it to 100
ends the operation with `Timeout`. It is held back only under `pop_first` while a byte can be popped (R180, R182); `tickDue`
is the model's own field (log entry 15). -/
def Obligations.RxTickOutcomes : Prop :=
  ∀ s : State, (Config.rxTickOrder ≠ .popFirst ∨ s.rxfifo = [] ∨ s.rxstate ≠ .receiving) →
    (s.rxstate ≠ .receiving → runEvent .rxTick s = .next { s with tickDue := false }) ∧
    (s.rxstate = .receiving → s.rxtimer ≠ 99 →
      runEvent .rxTick s = .next { s with rxtimer := s.rxtimer + 1, tickDue := false }) ∧
    (s.rxstate = .receiving → s.rxtimer = 99 →
      runEvent .rxTick s = .next { s with rxtimer := 100, rxerr := .timeout, rxstate := .done, tickDue := false })

/-- The parameter `RX_TICK_ORDER` decides which goes first when a tick is due and a queued byte can be popped: under `pop_first` the
tick is not counted and the byte is popped, under `tick_first` the byte is not popped and the tick is counted, under `either`
both can happen (R182). That a step held back is an event without effect is the model's choice (log entries 3 and 15). -/
def Obligations.TickOrderDecides : Prop :=
  ∀ s : State, Inv s → s.rxstate = .receiving → s.rxfifo ≠ [] → s.ferr = false → s.ovr = false → s.tickDue = true →
    let popGoes := ∃ t : State, runEvent .rxPop s = .next t ∧ t.rxcnt = s.rxcnt + 1 ∧ t.rxfifo = s.rxfifo.tail
    let tickGoes := ∃ t : State, runEvent .rxTick s = .next t ∧ t.rxtimer = s.rxtimer + 1 ∧ t.tickDue = false
    match Config.rxTickOrder with
    | .popFirst => runEvent .rxTick s = .next s ∧ popGoes
    | .tickFirst => runEvent .rxPop s = .next s ∧ tickGoes
    | .either => popGoes ∧ tickGoes

/-- Timeout boundedness: with nothing but ticks, the operation ends with `Timeout` at exactly the 100th and not before (R180). -/
def Obligations.HundredTicksEndTheOperation : Prop :=
  ∀ (s : State) (k : Nat), s.rxstate = .receiving → s.rxtimer = 0 → (Config.rxTickOrder ≠ .popFirst ∨ s.rxfifo = []) → 0 < k →
    (k < 100 → runEvents (List.replicate k .rxTick) s = .next { s with rxtimer := BitVec.ofNat 7 k, tickDue := false }) ∧
    (100 ≤ k → runEvents (List.replicate k .rxTick) s =
      .next { s with rxtimer := 100, rxerr := .timeout, rxstate := .done, tickDue := false })

/-- It never blocks indefinitely: whatever else happens, in whatever order, a run that contains the 100th tick after RX_START has
left `RX_RECEIVING` at some point (R173, R320). Under `pop_first` a tick waits for the queued bytes, so for that order it is said of
runs in which nothing is queued and nothing arrives. -/
def Obligations.ReceiveAlwaysEnds : Prop :=
  ∀ (es : List Event) (s t : State),
    (Config.rxTickOrder ≠ .popFirst ∨ (s.rxfifo = [] ∧ ∀ e ∈ es, bringsNothing e = true)) →
    s.rxstate = .receiving → s.rxtimer < 100 →
    runEvents es s = .next t → 100 ≤ s.rxtimer.toNat + es.count .rxTick →
    ∃ k : Nat, k ≤ es.length ∧ ∃ u : State, runEvents (es.take k) s = .next u ∧ u.rxstate ≠ .receiving

/-- A result stays: in `RX_DONE` nothing but an accepted RX_START or reset changes what RX_READ returns (R69 (c)). -/
def Obligations.ResultStaysUntilStart : Prop :=
  ∀ (e : Event) (s t : State), s.rxstate = .done → runEvent e s = .next t → e ≠ .reset →
    (∀ f bytes, e = .message f bytes → decode f bytes ≠ .ok .rxStart) → SameResult s t

/-! ### Frames from the peer -/

/-- A message of frame bytes is those bytes arriving one after the other, in every state, whether or not they are the encoding of a
frame: for each byte the ten URX_BIT samples of its character, then RX_POP as long as it is enabled (any number of RX_POP events
above the bytes already queued is enough, since one that is not enabled changes nothing). FRAME_SHORT, FRAME_LONG and the two
command responses are such messages. The one-step delivery is the model's (log entries 9, 11 and 21). -/
def Obligations.FrameMessageIsDelivered : Prop :=
  (∀ (bytes : List Byte) (s : State), runEvent (.message .frame bytes) s = deliver bytes s) ∧
  (∀ s : State, runEvent (.message .frame []) s = .next s) ∧
  (∀ (b : Byte) (bytes : List Byte) (s : State) (n : Nat), s.rxfifo.length < n →
    runEvent (.message .frame (b :: bytes)) s =
      andThen (runEvents ((charLevels b).map Event.urxBit ++ List.replicate n .rxPop) s)
        (runEvent (.message .frame bytes))) ∧
  ∀ (p rest : List Byte) (crc len : Half) (v : FwVersion) (g : Values) (s : State),
    exec (.frameShort p crc) s = runEvent (.message .frame (frameBytes p crc)) s ∧
    exec (.frameLong len rest) s = runEvent (.message .frame (0x03 :: hiByte len :: loByte len :: rest)) s ∧
    exec (.cmdFwVersion (some v)) s = runEvent (.message .frame (encodeFrame [0x00, v.major, v.minor])) s ∧
    exec (.cmdGetValues (some g)) s = runEvent (.message .frame (encodeFrame (0x04 :: valuesBytes g))) s

/-- Equivalence with the reference function: in a freshly started receive operation any byte sequence that arrives gives the verdict
of `decode`, consumes the number of bytes `decode` consumes, and leaves the rest queued as far as there is room; where the
verdict is `Timeout` the operation goes on, and the ticks that are left end it with `Timeout` (R188, R171, R180). One step for
the whole sequence is the model's choice (log entry 9). -/
def Obligations.DeframerFollowsDecode : Prop :=
  ∀ (bytes : List Byte) (s : State), FreshReceive s →
    ∃ t : State, runEvent (.message .frame bytes) s = .next t ∧ Followed bytes s t ∧
      ((decodeStream bytes).1 = .timeout → s.rxtimer < 100 →
        ∃ u : State, runEvents (List.replicate (100 - s.rxtimer.toNat) .rxTick) t = .next u ∧
          u.rxstate = .done ∧ u.rxerr = .timeout ∧ u.rxcnt = t.rxcnt ∧ u.crccalc = t.crccalc ∧ u.crcrecv = t.crcrecv)

/-- The same in a receive operation under way that has consumed `f` and has no verdict yet: what arrives continues `f`, and the verdict
is that of `decode` over both together. FRAME_SHORT, FRAME_LONG and the two command responses among it (R188, R171, R176). One
step for the whole sequence is the model's choice (log entries 9 and 11). -/
def Obligations.FramesContinueAnOperation : Prop :=
  (∀ (f bytes : List Byte) (s : State), UnderWay s f →
    ∃ t : State, runEvent (.message .frame bytes) s = .next t ∧ Followed (f ++ bytes) s t) ∧
  ∀ (f p rest : List Byte) (crc len : Half) (v : FwVersion) (g : Values) (s : State), UnderWay s f →
    ∀ c ∈ [(Instr.frameShort p crc, frameBytes p crc), (.frameLong len rest, 0x03 :: hiByte len :: loByte len :: rest),
      (.cmdFwVersion (some v), encodeFrame [0x00, v.major, v.minor]),
      (.cmdGetValues (some g), encodeFrame (0x04 :: valuesBytes g))],
    ∃ t : State, exec c.1 s = .next t ∧ Followed (f ++ c.2) s t

/-- FRAME_SHORT in a freshly started receive operation: the whole frame is consumed, buffered and judged; `OK` when its checksum
field is the payload's checksum, `ChecksumMismatch` with both values otherwise (R92, R178). One step for the whole frame is
the model's choice (log entry 9). -/
def Obligations.FrameShortIsDeframed : Prop :=
  ∀ (p : List Byte) (crc : Half) (s : State), p.length ≤ 255 → FreshReceive s →
    exec (.frameShort p crc) s =
      .next { s with
        urxsr := 0x03, rxbuf := Memory.holding (frameBytes p crc), rxcnt := BitVec.ofNat 9 (p.length + 5),
        rxlen := BitVec.ofNat 8 p.length, rxtotal := BitVec.ofNat 9 (p.length + 5), crccalc := crc16 p, crcrecv := crc,
        rxerr := if crc16 p = crc then .ok else .checksumMismatch, rxstate := .done }

/-- FRAME_LONG in a freshly started receive operation: two bytes are consumed, the operation ends with `UnsupportedFrame`, and the
body stays queued as far as there is room (R96, R177, R183). One step for the whole frame, and that any bytes may follow the length,
are the model's choice (log entries 9 and 20). -/
def Obligations.FrameLongIsUnsupported : Prop :=
  ∀ (len : Half) (rest : List Byte) (s : State), FreshReceive s →
    exec (.frameLong len rest) s =
      .next { s with
        urxsr := rest.getLast?.getD (loByte len), rxbuf := Memory.holding [0x03, hiByte len], rxcnt := 2,
        rxfifo := queueAfter [] (loByte len :: rest), ovr := overrunAfter [] (loByte len :: rest) false,
        rxerr := .unsupportedFrame, rxstate := .done }

/-- The two responses of the command table in a freshly started receive operation: `OK`, with the response payload buffered (R245,
R244, R178). That a response is its frame arriving, and that the whole frame arrives in one step with RX_POP taken after each byte,
is the model's choice (log entries 11 and 9). -/
def Obligations.CommandResponsesAreDeframed : Prop :=
  ∀ (s : State) (v : FwVersion) (g : Values), FreshReceive s →
    ∀ c ∈ [(Instr.cmdFwVersion (some v), [(0x00 : Byte), v.major, v.minor]), (.cmdGetValues (some g), 0x04 :: valuesBytes g)],
    exec c.1 s =
      .next { s with
        urxsr := 0x03, rxbuf := Memory.holding (encodeFrame c.2), rxcnt := BitVec.ofNat 9 (c.2.length + 5),
        rxlen := BitVec.ofNat 8 c.2.length, rxtotal := BitVec.ofNat 9 (c.2.length + 5), crccalc := crc16 c.2,
        crcrecv := crc16 c.2, rxerr := .ok, rxstate := .done }

/-- Frames, the two command responses among them, that arrive with no receive operation in progress are queued in order as far as
there is room, and `OVR` is set when a byte found none; nothing else changes (R218, R222). One step for the whole frame, and
that a response is its frame arriving, are the model's choice (log entries 9 and 11). -/
def Obligations.UnattendedFramesAreQueued : Prop :=
  ∀ (s : State) (p rest : List Byte) (crc len : Half) (v : FwVersion) (g : Values), Unattended s →
    ∀ c ∈ [(Instr.frameShort p crc, frameBytes p crc), (.frameLong len rest, 0x03 :: hiByte len :: loByte len :: rest),
      (.cmdFwVersion (some v), encodeFrame [0x00, v.major, v.minor]),
      (.cmdGetValues (some g), encodeFrame (0x04 :: valuesBytes g))],
    exec c.1 s =
      .next { s with urxsr := c.2.getLast?.getD 0x00, rxfifo := queueAfter s.rxfifo c.2,
                     ovr := overrunAfter s.rxfifo c.2 s.ovr }

/-! ### The whole machine -/

/-- Full duplex: the framer, the transmitter and TX_FRAME leave the receive path as it is; the receiver, the deframer, the timebase,
RX_START, RX_READ and everything the peer sends leave the transmit path as it is (R227). -/
def Obligations.PathsAreIndependent : Prop :=
  (∀ (e : Event) (s t : State), runEvent e s = .next t →
    (e = .txEmit ∨ e = .txFinish ∨ e = .utxBit ∨ (∃ f bytes p, e = .message f bytes ∧ decode f bytes = .ok (.txFrame p))) →
    SameReceive s t) ∧
  ∀ (e : Event) (s t : State), runEvent e s = .next t →
    ((∃ x, e = .urxBit x) ∨ e = .rxPop ∨ e = .rxLinkErr ∨ e = .tickDue ∨ e = .rxTick ∨
      (∃ bytes, e = .message .frame bytes) ∨ (∃ bytes, e = .message .char bytes) ∨
      (∃ f bytes, e = .message f bytes ∧ (decode f bytes = .ok .rxStart ∨ decode f bytes = .ok .rxRead))) →
    SameTransmit s t

/-- Reset, in every state, gives every element of the block the value of the table of R50; `TXFRAME` and `RXBUF` hold no value; and the
state after reset is such a state (R50, R300). -/
def Obligations.ResetValues : Prop :=
  (∀ s : State, ∃ t : State, runEvent .reset s = .next t ∧ AtReset t) ∧ AtReset State.reset

/-- A step runs the decoded instruction: when the next event is a message that decodes to a well-formed instruction, the step is that
instruction's meaning at the state without the event; any other event is taken the same way; and with nothing waiting the free
environment supplies the event. The inbox and the environment are the model's (log entries 1 and 2). -/
def Obligations.StepRunsDecodedInstruction : Prop :=
  (∀ (s : State) (f : Format) (bytes : List Byte) (rest : List Event) (i : Instr),
    s.inbox = .message f bytes :: rest → decode f bytes = .ok i → WellFormed i = true →
    step s = exec i { s with inbox := rest }) ∧
  (∀ (s : State) (e : Event) (rest : List Event), s.inbox = e :: rest → step s = runEvent e { s with inbox := rest }) ∧
  ∀ s : State, s.inbox = [] → step s = runEvent (Config.environment s.envPos) { s with envPos := s.envPos + 1 }

/-- A word of the opcode table placed with `withFetchWord` is what the very next step runs, for every word that decodes and in every
state; among them the codes `0x0`, `0x3`, `0x4`, `0xF` of R100, the id `0x1E` of R104 and the character `0x204` of R91. How a
word is placed and which encoding a bare word belongs to are the model's (log entries 4 and 5), and so is
the two-byte container of a character (log entry 29). -/
def Obligations.FetchedWordRuns : Prop :=
  (∀ (s : State) (nbits w : Nat) (i : Instr), decodeTableWord nbits w = some i →
    step (s.withFetchWord nbits w) = exec i s) ∧
  ∀ s : State, step (s.withFetchWord 8 0x0) = exec .statRead s ∧ step (s.withFetchWord 8 0x3) = exec .crcRead s ∧
    step (s.withFetchWord 8 0x4) = exec (.txFrame []) s ∧ step (s.withFetchWord 8 0xF) = exec .reservedF s ∧
    step (s.withFetchWord 8 0x1E) = exec .cmdKeepalive s ∧ step (s.withFetchWord 16 0x204) = exec (.uartChar 0x02) s

/-- The invariant of R51 holds after reset. -/
def Obligations.InvariantAtReset : Prop := Inv State.reset

/-- Every step keeps the invariant: every clause of R51, the buffer bounds, and the frame in flight (R51, R61, R67). -/
def Obligations.StepKeepsInvariant : Prop :=
  ∀ s t : State, Inv s → step s = .next t → Inv t

/-- From a state that meets the invariant no step faults: no access is out of range and none reads a byte that holds no value (R61). -/
def Obligations.InvariantExcludesFaults : Prop :=
  ∀ s : State, Inv s → StepFaultFree s

/-- Nothing is stuck: in every state that meets the invariant every instruction completes (93 Part 2, R269). -/
def Obligations.EveryInstructionCompletes : Prop :=
  ∀ (i : Instr) (s : State), Inv s → ∃ t : State, exec i s = .next t

/-- The only refusals are those of messages that no host binding or line can deliver: a host message that is no operation of R100, a
container that holds no ten bits (log entries 7 and 29). -/
def Obligations.OnlyMalformedMessagesAreRefused : Prop :=
  ∀ (e : Event) (s : State) (r : Refusal), runEvent e s = .refused r →
    ∃ bytes : List Byte, (e = .message .hostOp bytes ∧ r = .notAnOperation bytes ∧ ∀ i, decode .hostOp bytes ≠ .ok i) ∨
      (e = .message .char bytes ∧ r = .notACharacter bytes ∧ charContainer bytes = none)
end

