-- ==== Sys2Proof/Laws/Codec.lean ====
section
/-! SUPPORT. Small lemmas of the byte, CRC and frame functions: lengths, the fold of crc_step, taking a big-endian field back off
the front of a payload. -/

namespace Sys2Proof.Machine

@[simp] theorem be16_length (v : Half) : (be16 v).length = 2 := rfl

@[simp] theorem be32_length (v : Word) : (be32 v).length = 4 := rfl

@[simp] theorem crc16_nil : crc16 [] = 0 := rfl

/-- `crc16` continues from a running value: it is the fold of `crc_step` (R130, R141). -/
theorem crc16_append (s t : List Byte) : crc16 (s ++ t) = t.foldl crcStep (crc16 s) := by
  simp [crc16, List.foldl_append]

theorem frameBytes_length (payload : List Byte) (crc : Half) : (frameBytes payload crc).length = payload.length + 5 := by
  simp [frameBytes, be16]

theorem encodeFrame_length (payload : List Byte) : (encodeFrame payload).length = payload.length + 5 :=
  frameBytes_length payload (crc16 payload)

/-- A frame of a payload that fits is at most 260 bytes (R93). -/
theorem encodeFrame_length_le (payload : List Byte) (h : payload.length ≤ Config.maxPayload) :
    (encodeFrame payload).length ≤ Config.frameMax := by
  rw [encodeFrame_length]
  simp only [Config.maxPayload, Config.frameMax] at *
  omega

theorem frameTotal_toNat (n : Nat) (h : n ≤ Config.maxPayload) : (frameTotal n).toNat = n + 5 := by
  simp only [frameTotal, Config.frameOverhead, BitVec.toNat_ofNat, Config.maxPayload] at *
  omega

theorem declaredTotal_toNat (len : Byte) : (declaredTotal len).toNat = len.toNat + 5 := by
  have := len.isLt
  have h5 : (5 : BitVec 9).toNat = 5 := rfl
  simp only [declaredTotal, BitVec.toNat_add, BitVec.toNat_setWidth, h5]
  omega

theorem lenByte_toNat (n : Nat) (h : n ≤ Config.maxPayload) : (lenByte n).toNat = n := by
  simp only [lenByte, BitVec.toNat_ofNat, Config.maxPayload] at *
  omega

theorem declaredTotal_lenByte (n : Nat) (h : n ≤ Config.maxPayload) : declaredTotal (lenByte n) = frameTotal n := by
  apply BitVec.eq_of_toNat_eq
  rw [declaredTotal_toNat, lenByte_toNat n h, frameTotal_toNat n h]

/-- `{hi, lo}` is `hi * 256 + lo` (R9). -/
theorem halfOf_toNat (a b : Byte) : (halfOf a b).toNat = a.toNat * 2 ^ 8 + b.toNat := by
  have ha := a.isLt
  have hb := b.isLt
  have e1 : (a.setWidth 16 <<< 8).toNat = a.toNat <<< 8 := by
    simp [Nat.shiftLeft_eq]; omega
  have e2 : (b.setWidth 16).toNat = b.toNat := by
    simp; omega
  rw [halfOf, BitVec.toNat_or, e1, e2, ← Nat.shiftLeft_add_eq_or_of_lt (by omega), Nat.shiftLeft_eq]

theorem hiByte_toNat (v : Half) : (hiByte v).toNat = v.toNat / 2 ^ 8 := by
  have := v.isLt
  simp only [hiByte, BitVec.toNat_setWidth, BitVec.toNat_ushiftRight, Nat.shiftRight_eq_div_pow]
  omega

theorem loByte_toNat (v : Half) : (loByte v).toNat = v.toNat % 2 ^ 8 := by
  simp [loByte]

/-- A 16-bit value is its two bytes (R9, R62). -/
@[simp] theorem halfOf_bytes (v : Half) : halfOf (hiByte v) (loByte v) = v := by
  apply BitVec.eq_of_toNat_eq
  rw [halfOf_toNat, hiByte_toNat, loByte_toNat]
  omega

@[simp] theorem hiByte_halfOf (a b : Byte) : hiByte (halfOf a b) = a := by
  apply BitVec.eq_of_toNat_eq
  have := b.isLt
  rw [hiByte_toNat, halfOf_toNat]
  omega

@[simp] theorem loByte_halfOf (a b : Byte) : loByte (halfOf a b) = b := by
  apply BitVec.eq_of_toNat_eq
  have := b.isLt
  rw [loByte_toNat, halfOf_toNat]
  omega

@[simp] theorem be16_halfOf (a b : Byte) : be16 (halfOf a b) = [a, b] := by
  simp [be16]

theorem take16_be16 (v : Half) (r : List Byte) : take16 (be16 v ++ r) = some (v, r) := by
  simp [be16, take16]

/-- `b0 * 2^24 + b1 * 2^16 + b2 * 2^8 + b3` (R242). -/
theorem wordOf_toNat (a b c d : Byte) :
    (wordOf a b c d).toNat = a.toNat * 2 ^ 24 + b.toNat * 2 ^ 16 + c.toNat * 2 ^ 8 + d.toNat := by
  have ha := a.isLt
  have hb := b.isLt
  have hc := c.isLt
  have hd := d.isLt
  have e1 : (a.setWidth 32 <<< 24).toNat = a.toNat <<< 24 := by
    simp [Nat.shiftLeft_eq]; omega
  have e2 : (b.setWidth 32 <<< 16).toNat = b.toNat <<< 16 := by
    simp [Nat.shiftLeft_eq]; omega
  have e3 : (c.setWidth 32 <<< 8).toNat = c.toNat <<< 8 := by
    simp [Nat.shiftLeft_eq]; omega
  have e4 : (d.setWidth 32).toNat = d.toNat := by
    simp; omega
  have o1 : a.toNat <<< 24 ||| b.toNat <<< 16 = (a.toNat * 2 ^ 8 + b.toNat) <<< 16 := by
    rw [← Nat.shiftLeft_add_eq_or_of_lt (a := a.toNat) (b := b.toNat <<< 16) (i := 24) (by simp [Nat.shiftLeft_eq]; omega)]
    simp only [Nat.shiftLeft_eq]; omega
  have o2 : (a.toNat * 2 ^ 8 + b.toNat) <<< 16 ||| c.toNat <<< 8 =
      ((a.toNat * 2 ^ 8 + b.toNat) * 2 ^ 8 + c.toNat) <<< 8 := by
    rw [← Nat.shiftLeft_add_eq_or_of_lt (i := 16) (by simp [Nat.shiftLeft_eq]; omega)]
    simp only [Nat.shiftLeft_eq]; omega
  have o3 : ((a.toNat * 2 ^ 8 + b.toNat) * 2 ^ 8 + c.toNat) <<< 8 ||| d.toNat =
      ((a.toNat * 2 ^ 8 + b.toNat) * 2 ^ 8 + c.toNat) * 2 ^ 8 + d.toNat := by
    rw [← Nat.shiftLeft_add_eq_or_of_lt (i := 8) (by omega)]
    simp only [Nat.shiftLeft_eq]
  rw [wordOf, BitVec.toNat_or, BitVec.toNat_or, BitVec.toNat_or, e1, e2, e3, e4, o1, o2, o3]
  omega

theorem wordOf_be32 (v : Word) :
    wordOf ((v >>> 24).setWidth 8) ((v >>> 16).setWidth 8) ((v >>> 8).setWidth 8) (v.setWidth 8) = v := by
  apply BitVec.eq_of_toNat_eq
  have := v.isLt
  have h (a b c d : Byte) : (wordOf a b c d).toNat = a.toNat * 2 ^ 24 + b.toNat * 2 ^ 16 + c.toNat * 2 ^ 8 + d.toNat :=
    wordOf_toNat a b c d
  rw [h]
  simp only [BitVec.toNat_setWidth, BitVec.toNat_ushiftRight, Nat.shiftRight_eq_div_pow]
  omega

theorem take32_be32 (v : Word) (r : List Byte) : take32 (be32 v ++ r) = some (v, r) := by
  simp only [be32, List.cons_append, List.nil_append, take32, wordOf_be32]

/-- A get-values response has 58 bytes after its command id (R244: 59 in all). -/
theorem valuesBytes_length (v : Values) : (valuesBytes v).length = 58 := rfl

end Sys2Proof.Machine
end

