-- ==== Sys2Proof/Laws/Memory.lean ====
section
/-! SUPPORT. The byte buffers: reading after writing, the canonical form kept by every operation, and a buffer that holds exactly a
byte sequence (spec 20_memory R64, R67). -/

namespace Sys2Proof.Machine

theorem Memory.read_write_same (m : Memory) (a : Nat) (b : Byte) : (m.write a b).read a = some b := by
  induction m with
  | nil => simp [Memory.write, Memory.read]
  | cons c m ih =>
    obtain ⟨k, v⟩ := c
    simp only [Memory.write]
    split
    · simp [Memory.read]
    · split
      · simp [Memory.read]
      · rename_i h
        simp [Memory.read, h, ih]

theorem Memory.read_write_ne (m : Memory) {a i : Nat} (b : Byte) (h : i ≠ a) : (m.write a b).read i = m.read i := by
  induction m with
  | nil => simp [Memory.write, Memory.read, h]
  | cons c m ih =>
    obtain ⟨k, v⟩ := c
    simp only [Memory.write]
    split
    · simp [Memory.read, h]
    · split
      · rename_i hk
        subst hk
        simp [Memory.read, h]
      · simp [Memory.read, ih]

theorem Memory.read_write (m : Memory) (a i : Nat) (b : Byte) :
    (m.write a b).read i = if i = a then some b else m.read i := by
  split
  · rename_i h; rw [h, Memory.read_write_same]
  · rename_i h; exact Memory.read_write_ne m b h

/-- An index below every listed one holds no value. -/
theorem Memory.read_none_of_lt (m : Memory) (a : Nat) (h : ∀ c ∈ m, a < c.1) : m.read a = none := by
  induction m with
  | nil => rfl
  | cons c m ih =>
    have hc : a ≠ c.1 := by have := h c (by simp); omega
    simp [Memory.read, hc, ih fun d hd => h d (by simp [hd])]

/-- Writing at an index adds that index and removes none. -/
theorem Memory.mem_write_fst (m : Memory) (a : Nat) (b : Byte) (k : Nat) :
    k ∈ (m.write a b).map Prod.fst ↔ k = a ∨ k ∈ m.map Prod.fst := by
  induction m with
  | nil => simp [Memory.write]
  | cons c m ih =>
    obtain ⟨i, v⟩ := c
    simp only [Memory.write]
    split
    · simp
    · split
      · rename_i h; subst h; simp
      · simp only [List.map_cons, List.mem_cons, ih]; tauto

theorem Memory.pairwise_write (m : Memory) (a : Nat) (b : Byte) (h : (m.map Prod.fst).Pairwise (· < ·)) :
    ((m.write a b).map Prod.fst).Pairwise (· < ·) := by
  induction m with
  | nil => simp [Memory.write]
  | cons c m ih =>
    obtain ⟨i, v⟩ := c
    simp only [List.map_cons, List.pairwise_cons] at h
    simp only [Memory.write]
    split
    · rename_i hai
      simp only [List.map_cons, List.pairwise_cons, List.mem_cons, forall_eq_or_imp]
      exact ⟨⟨hai, fun k hk => lt_trans hai (h.1 k hk)⟩, h⟩
    · split
      · rename_i hai
        subst hai
        simpa using h
      · simp only [List.map_cons, List.pairwise_cons]
        refine ⟨fun k hk => ?_, ih h.2⟩
        rcases (Memory.mem_write_fst m a b k).1 hk with hk' | hk'
        · omega
        · exact h.1 k hk'

theorem Memory.wf_iff (m : Memory) :
    m.wf = true ↔ (m.map Prod.fst).Pairwise (· < ·) ∧ ∀ k ∈ m.map Prod.fst, k < Config.frameMax := by
  simp [Memory.wf]

theorem Memory.write_keeps_wf (m : Memory) (a : Nat) (b : Byte) (h : m.wf = true) (ha : a < Config.frameMax) :
    (m.write a b).wf = true := by
  rw [Memory.wf_iff] at h ⊢
  refine ⟨Memory.pairwise_write m a b h.1, fun k hk => ?_⟩
  rcases (Memory.mem_write_fst m a b k).1 hk with hk' | hk'
  · omega
  · exact h.2 k hk'

theorem Memory.writeBytes_keeps_wf (m : Memory) (i : Nat) (bs : List Byte) (h : m.wf = true)
    (hi : i + bs.length ≤ Config.frameMax) : (m.writeBytes i bs).wf = true := by
  induction bs generalizing m i with
  | nil => simpa [Memory.writeBytes] using h
  | cons b bs ih =>
    simp only [List.length_cons] at hi
    exact ih (m.write i b) (i + 1) (Memory.write_keeps_wf m i b h (by omega)) (by omega)

/-- Every memory operation that answers keeps the canonical form: `memWrite` is the one that writes. -/
theorem memWrite_keeps_wf (m m' : Memory) (i : Nat) (bs : List Byte) (h : m.wf = true) (hw : memWrite m i bs = .ok m') :
    m'.wf = true := by
  unfold memWrite at hw
  split at hw
  · cases hw; exact Memory.writeBytes_keeps_wf m i bs h ‹_›
  · cases hw

/-- All that `memWrite` can do. -/
theorem memWrite_cases (m : Memory) (i : Nat) (bs : List Byte) :
    (i + bs.length ≤ Config.frameMax ∧ memWrite m i bs = .ok (m.writeBytes i bs)) ∨
    (Config.frameMax < i + bs.length ∧ memWrite m i bs = .error (.outsideBuffer (i + bs.length - 1))) := by
  unfold memWrite
  split
  · exact .inl ⟨‹_›, rfl⟩
  · exact .inr ⟨by omega, rfl⟩

/-- All that `readByte` can do. -/
theorem readByte_cases (m : Memory) (i : Nat) :
    (∃ b, m.read i = some b ∧ readByte m i = .ok b) ∨ (m.read i = none ∧ readByte m i = .error (.noValue i)) := by
  unfold readByte
  cases m.read i with
  | none => exact .inr ⟨rfl, rfl⟩
  | some b => exact .inl ⟨b, rfl, rfl⟩

theorem readByte_ok_iff (m : Memory) (i : Nat) (b : Byte) : readByte m i = .ok b ↔ m.read i = some b := by
  unfold readByte
  cases m.read i <;> simp

@[simp] theorem reset_memories_wf : State.reset.txframe.wf = true ∧ State.reset.rxbuf.wf = true := by decide

/-- Reading after a byte sequence was stored: inside it its bytes, outside it what was there before. -/
theorem Memory.read_writeBytes (m : Memory) (i : Nat) (bs : List Byte) (a : Nat) :
    (m.writeBytes i bs).read a = if i ≤ a ∧ a < i + bs.length then bs[a - i]? else m.read a := by
  induction bs generalizing m i with
  | nil => simp [Memory.writeBytes]
  | cons b bs ih =>
    rw [Memory.writeBytes, ih, Memory.read_write]
    simp only [List.length_cons]
    by_cases h1 : a = i
    · subst h1; simp
    · have e : (i + 1 ≤ a ∧ a < i + 1 + bs.length) ↔ (i ≤ a ∧ a < i + (bs.length + 1)) := by omega
      simp only [h1, if_false, e]
      split
      · have : a - i = (a - (i + 1)) + 1 := by omega
        rw [this, List.getElem?_cons_succ]
      · rfl

/-- A buffer that holds exactly a byte sequence reads as that sequence (R67). -/
theorem Memory.read_holding (bs : List Byte) (a : Nat) : (Memory.holding bs).read a = bs[a]? := by
  rw [Memory.holding, Memory.read_writeBytes]
  by_cases h : a < bs.length
  · simp [h]
  · simp [h, Memory.read]

/-- Writing just past the end of a buffer that lists `0` to `n - 1` appends. -/
theorem Memory.write_at_end (m : Memory) (a : Nat) (b : Byte) (h : ∀ c ∈ m, c.1 < a) : m.write a b = m ++ [(a, b)] := by
  induction m with
  | nil => rfl
  | cons c m ih =>
    obtain ⟨k, v⟩ := c
    have hk : k < a := h (k, v) (by simp)
    simp only [Memory.write, show ¬a < k by omega, show ¬a = k by omega, if_false, List.cons_append]
    rw [ih fun d hd => h d (by simp [hd])]

theorem Memory.write_fst_range (m : Memory) (n : Nat) (b : Byte) (h : m.map Prod.fst = List.range n) :
    (m.write n b).map Prod.fst = List.range (n + 1) := by
  rw [Memory.write_at_end m n b, List.map_append, h, List.range_succ]
  · rfl
  · intro c hc
    have : c.1 ∈ m.map Prod.fst := List.mem_map_of_mem hc
    rw [h] at this
    simpa using this

theorem Memory.writeBytes_fst_range (m : Memory) (n : Nat) (bs : List Byte) (h : m.map Prod.fst = List.range n) :
    (m.writeBytes n bs).map Prod.fst = List.range (n + bs.length) := by
  induction bs generalizing m n with
  | nil => simpa [Memory.writeBytes] using h
  | cons b bs ih =>
    rw [Memory.writeBytes, ih _ (n + 1) (Memory.write_fst_range m n b h), List.length_cons]
    congr 1
    omega

/-- The indices a buffer holds after a whole byte sequence was stored from index 0. -/
theorem Memory.holding_fst (bs : List Byte) : (Memory.holding bs).map Prod.fst = List.range bs.length := by
  have := Memory.writeBytes_fst_range [] 0 bs rfl
  simpa [Memory.holding] using this

/-- Storing the next byte of a sequence a buffer holds. -/
theorem Memory.writeBytes_append (m : Memory) (i : Nat) (bs cs : List Byte) :
    m.writeBytes i (bs ++ cs) = (m.writeBytes i bs).writeBytes (i + bs.length) cs := by
  induction bs generalizing m i with
  | nil => simp [Memory.writeBytes]
  | cons b bs ih =>
    simp only [List.cons_append, Memory.writeBytes, ih, List.length_cons]
    congr 1
    omega

theorem Memory.holding_snoc (bs : List Byte) (b : Byte) :
    Memory.holding (bs ++ [b]) = (Memory.holding bs).write bs.length b := by
  simp [Memory.holding, Memory.writeBytes_append, Memory.writeBytes]

theorem memRead_holding (bs : List Byte) (i n : Nat) (h : i + n ≤ bs.length) :
    memRead (Memory.holding bs) i n = .ok ((bs.drop i).take n) := by
  induction n generalizing i with
  | zero => simp [memRead]
  | succ n ih =>
    have hi : i < bs.length := by omega
    have hr : readByte (Memory.holding bs) i = .ok bs[i] := by
      rw [readByte_ok_iff, Memory.read_holding, List.getElem?_eq_getElem hi]
    rw [memRead, hr, ih (i + 1) (by omega)]
    rw [List.drop_eq_getElem_cons hi, List.take_succ_cons]

/-- `memRead` answers when every index of the slice holds a value. -/
theorem memRead_ok_of_values (m : Memory) (i n : Nat) (h : ∀ a, i ≤ a → a < i + n → (m.read a).isSome) :
    ∃ bs, memRead m i n = .ok bs ∧ bs.length = n := by
  induction n generalizing i with
  | zero => exact ⟨[], rfl, rfl⟩
  | succ n ih =>
    obtain ⟨b, hb⟩ := Option.isSome_iff_exists.1 (h i (le_refl i) (by omega))
    obtain ⟨bs, hbs, hl⟩ := ih (i + 1) fun a h1 h2 => h a (by omega) (by omega)
    refine ⟨b :: bs, ?_, by simp [hl]⟩
    rw [memRead, (readByte_ok_iff m i b).2 hb, hbs]

theorem Memory.read_isSome_of_mem (m : Memory) (a : Nat) (h : a ∈ m.map Prod.fst) : (m.read a).isSome := by
  induction m with
  | nil => simp at h
  | cons c m ih =>
    obtain ⟨k, v⟩ := c
    simp only [Memory.read]
    split
    · rfl
    · rename_i hk
      exact ih (by simpa [hk] using h)

end Sys2Proof.Machine
end

