-- ==== Sys2Proof/Laws/State.lean ====
section
/-! SUPPORT. The small lemmas of the named state updates (Machine/Ops.lean): one for each field, so that no later proof unfolds a
record update. -/

namespace Sys2Proof.Machine

@[simp] theorem reply_crc (a : Answer) (s : State) : (reply a s).crc = s.crc := rfl
@[simp] theorem reply_txstate (a : Answer) (s : State) : (reply a s).txstate = s.txstate := rfl
@[simp] theorem reply_txframe (a : Answer) (s : State) : (reply a s).txframe = s.txframe := rfl
@[simp] theorem reply_txtotal (a : Answer) (s : State) : (reply a s).txtotal = s.txtotal := rfl
@[simp] theorem reply_txpos (a : Answer) (s : State) : (reply a s).txpos = s.txpos := rfl
@[simp] theorem reply_utxsr (a : Answer) (s : State) : (reply a s).utxsr = s.utxsr := rfl
@[simp] theorem reply_utxn (a : Answer) (s : State) : (reply a s).utxn = s.utxn := rfl
@[simp] theorem reply_txd (a : Answer) (s : State) : (reply a s).txd = s.txd := rfl
@[simp] theorem reply_urxsr (a : Answer) (s : State) : (reply a s).urxsr = s.urxsr := rfl
@[simp] theorem reply_urxn (a : Answer) (s : State) : (reply a s).urxn = s.urxn := rfl
@[simp] theorem reply_rxfifo (a : Answer) (s : State) : (reply a s).rxfifo = s.rxfifo := rfl
@[simp] theorem reply_ferr (a : Answer) (s : State) : (reply a s).ferr = s.ferr := rfl
@[simp] theorem reply_ovr (a : Answer) (s : State) : (reply a s).ovr = s.ovr := rfl
@[simp] theorem reply_rxstate (a : Answer) (s : State) : (reply a s).rxstate = s.rxstate := rfl
@[simp] theorem reply_rxbuf (a : Answer) (s : State) : (reply a s).rxbuf = s.rxbuf := rfl
@[simp] theorem reply_rxcnt (a : Answer) (s : State) : (reply a s).rxcnt = s.rxcnt := rfl
@[simp] theorem reply_rxlen (a : Answer) (s : State) : (reply a s).rxlen = s.rxlen := rfl
@[simp] theorem reply_rxtotal (a : Answer) (s : State) : (reply a s).rxtotal = s.rxtotal := rfl
@[simp] theorem reply_rxtimer (a : Answer) (s : State) : (reply a s).rxtimer = s.rxtimer := rfl
@[simp] theorem reply_rxerr (a : Answer) (s : State) : (reply a s).rxerr = s.rxerr := rfl
@[simp] theorem reply_crccalc (a : Answer) (s : State) : (reply a s).crccalc = s.crccalc := rfl
@[simp] theorem reply_crcrecv (a : Answer) (s : State) : (reply a s).crcrecv = s.crcrecv := rfl
@[simp] theorem reply_answer (a : Answer) (s : State) : (reply a s).answer = a := rfl
@[simp] theorem reply_tickDue (a : Answer) (s : State) : (reply a s).tickDue = s.tickDue := rfl
@[simp] theorem reply_inbox (a : Answer) (s : State) : (reply a s).inbox = s.inbox := rfl
@[simp] theorem reply_envPos (a : Answer) (s : State) : (reply a s).envPos = s.envPos := rfl

@[simp] theorem dropEvent_crc (s : State) : (dropEvent s).crc = s.crc := rfl
@[simp] theorem dropEvent_txstate (s : State) : (dropEvent s).txstate = s.txstate := rfl
@[simp] theorem dropEvent_txframe (s : State) : (dropEvent s).txframe = s.txframe := rfl
@[simp] theorem dropEvent_txtotal (s : State) : (dropEvent s).txtotal = s.txtotal := rfl
@[simp] theorem dropEvent_txpos (s : State) : (dropEvent s).txpos = s.txpos := rfl
@[simp] theorem dropEvent_utxsr (s : State) : (dropEvent s).utxsr = s.utxsr := rfl
@[simp] theorem dropEvent_utxn (s : State) : (dropEvent s).utxn = s.utxn := rfl
@[simp] theorem dropEvent_txd (s : State) : (dropEvent s).txd = s.txd := rfl
@[simp] theorem dropEvent_urxsr (s : State) : (dropEvent s).urxsr = s.urxsr := rfl
@[simp] theorem dropEvent_urxn (s : State) : (dropEvent s).urxn = s.urxn := rfl
@[simp] theorem dropEvent_rxfifo (s : State) : (dropEvent s).rxfifo = s.rxfifo := rfl
@[simp] theorem dropEvent_ferr (s : State) : (dropEvent s).ferr = s.ferr := rfl
@[simp] theorem dropEvent_ovr (s : State) : (dropEvent s).ovr = s.ovr := rfl
@[simp] theorem dropEvent_rxstate (s : State) : (dropEvent s).rxstate = s.rxstate := rfl
@[simp] theorem dropEvent_rxbuf (s : State) : (dropEvent s).rxbuf = s.rxbuf := rfl
@[simp] theorem dropEvent_rxcnt (s : State) : (dropEvent s).rxcnt = s.rxcnt := rfl
@[simp] theorem dropEvent_rxlen (s : State) : (dropEvent s).rxlen = s.rxlen := rfl
@[simp] theorem dropEvent_rxtotal (s : State) : (dropEvent s).rxtotal = s.rxtotal := rfl
@[simp] theorem dropEvent_rxtimer (s : State) : (dropEvent s).rxtimer = s.rxtimer := rfl
@[simp] theorem dropEvent_rxerr (s : State) : (dropEvent s).rxerr = s.rxerr := rfl
@[simp] theorem dropEvent_crccalc (s : State) : (dropEvent s).crccalc = s.crccalc := rfl
@[simp] theorem dropEvent_crcrecv (s : State) : (dropEvent s).crcrecv = s.crcrecv := rfl
@[simp] theorem dropEvent_answer (s : State) : (dropEvent s).answer = s.answer := rfl
@[simp] theorem dropEvent_tickDue (s : State) : (dropEvent s).tickDue = s.tickDue := rfl
@[simp] theorem dropEvent_inbox (s : State) : (dropEvent s).inbox = s.inbox.tail := rfl
@[simp] theorem dropEvent_envPos (s : State) : (dropEvent s).envPos = s.envPos := rfl

@[simp] theorem nextEnv_crc (s : State) : (nextEnv s).crc = s.crc := rfl
@[simp] theorem nextEnv_txstate (s : State) : (nextEnv s).txstate = s.txstate := rfl
@[simp] theorem nextEnv_txframe (s : State) : (nextEnv s).txframe = s.txframe := rfl
@[simp] theorem nextEnv_txtotal (s : State) : (nextEnv s).txtotal = s.txtotal := rfl
@[simp] theorem nextEnv_txpos (s : State) : (nextEnv s).txpos = s.txpos := rfl
@[simp] theorem nextEnv_utxsr (s : State) : (nextEnv s).utxsr = s.utxsr := rfl
@[simp] theorem nextEnv_utxn (s : State) : (nextEnv s).utxn = s.utxn := rfl
@[simp] theorem nextEnv_txd (s : State) : (nextEnv s).txd = s.txd := rfl
@[simp] theorem nextEnv_urxsr (s : State) : (nextEnv s).urxsr = s.urxsr := rfl
@[simp] theorem nextEnv_urxn (s : State) : (nextEnv s).urxn = s.urxn := rfl
@[simp] theorem nextEnv_rxfifo (s : State) : (nextEnv s).rxfifo = s.rxfifo := rfl
@[simp] theorem nextEnv_ferr (s : State) : (nextEnv s).ferr = s.ferr := rfl
@[simp] theorem nextEnv_ovr (s : State) : (nextEnv s).ovr = s.ovr := rfl
@[simp] theorem nextEnv_rxstate (s : State) : (nextEnv s).rxstate = s.rxstate := rfl
@[simp] theorem nextEnv_rxbuf (s : State) : (nextEnv s).rxbuf = s.rxbuf := rfl
@[simp] theorem nextEnv_rxcnt (s : State) : (nextEnv s).rxcnt = s.rxcnt := rfl
@[simp] theorem nextEnv_rxlen (s : State) : (nextEnv s).rxlen = s.rxlen := rfl
@[simp] theorem nextEnv_rxtotal (s : State) : (nextEnv s).rxtotal = s.rxtotal := rfl
@[simp] theorem nextEnv_rxtimer (s : State) : (nextEnv s).rxtimer = s.rxtimer := rfl
@[simp] theorem nextEnv_rxerr (s : State) : (nextEnv s).rxerr = s.rxerr := rfl
@[simp] theorem nextEnv_crccalc (s : State) : (nextEnv s).crccalc = s.crccalc := rfl
@[simp] theorem nextEnv_crcrecv (s : State) : (nextEnv s).crcrecv = s.crcrecv := rfl
@[simp] theorem nextEnv_answer (s : State) : (nextEnv s).answer = s.answer := rfl
@[simp] theorem nextEnv_tickDue (s : State) : (nextEnv s).tickDue = s.tickDue := rfl
@[simp] theorem nextEnv_inbox (s : State) : (nextEnv s).inbox = s.inbox := rfl
@[simp] theorem nextEnv_envPos (s : State) : (nextEnv s).envPos = s.envPos + 1 := rfl

@[simp] theorem raise_none_crc (x : Status) (s : State) : (raise x none s).crc = s.crc := rfl
@[simp] theorem raise_none_txstate (x : Status) (s : State) : (raise x none s).txstate = s.txstate := rfl
@[simp] theorem raise_none_txframe (x : Status) (s : State) : (raise x none s).txframe = s.txframe := rfl
@[simp] theorem raise_none_txtotal (x : Status) (s : State) : (raise x none s).txtotal = s.txtotal := rfl
@[simp] theorem raise_none_txpos (x : Status) (s : State) : (raise x none s).txpos = s.txpos := rfl
@[simp] theorem raise_none_utxsr (x : Status) (s : State) : (raise x none s).utxsr = s.utxsr := rfl
@[simp] theorem raise_none_utxn (x : Status) (s : State) : (raise x none s).utxn = s.utxn := rfl
@[simp] theorem raise_none_txd (x : Status) (s : State) : (raise x none s).txd = s.txd := rfl
@[simp] theorem raise_none_urxsr (x : Status) (s : State) : (raise x none s).urxsr = s.urxsr := rfl
@[simp] theorem raise_none_urxn (x : Status) (s : State) : (raise x none s).urxn = s.urxn := rfl
@[simp] theorem raise_none_rxfifo (x : Status) (s : State) : (raise x none s).rxfifo = s.rxfifo := rfl
@[simp] theorem raise_none_ferr (x : Status) (s : State) : (raise x none s).ferr = s.ferr := rfl
@[simp] theorem raise_none_ovr (x : Status) (s : State) : (raise x none s).ovr = s.ovr := rfl
@[simp] theorem raise_none_rxstate (x : Status) (s : State) : (raise x none s).rxstate = .done := rfl
@[simp] theorem raise_none_rxbuf (x : Status) (s : State) : (raise x none s).rxbuf = s.rxbuf := rfl
@[simp] theorem raise_none_rxcnt (x : Status) (s : State) : (raise x none s).rxcnt = s.rxcnt := rfl
@[simp] theorem raise_none_rxlen (x : Status) (s : State) : (raise x none s).rxlen = s.rxlen := rfl
@[simp] theorem raise_none_rxtotal (x : Status) (s : State) : (raise x none s).rxtotal = s.rxtotal := rfl
@[simp] theorem raise_none_rxtimer (x : Status) (s : State) : (raise x none s).rxtimer = s.rxtimer := rfl
@[simp] theorem raise_none_rxerr (x : Status) (s : State) : (raise x none s).rxerr = x := rfl
@[simp] theorem raise_none_crccalc (x : Status) (s : State) : (raise x none s).crccalc = s.crccalc := rfl
@[simp] theorem raise_none_crcrecv (x : Status) (s : State) : (raise x none s).crcrecv = s.crcrecv := rfl
@[simp] theorem raise_none_answer (x : Status) (s : State) : (raise x none s).answer = s.answer := rfl
@[simp] theorem raise_none_tickDue (x : Status) (s : State) : (raise x none s).tickDue = s.tickDue := rfl
@[simp] theorem raise_none_inbox (x : Status) (s : State) : (raise x none s).inbox = s.inbox := rfl
@[simp] theorem raise_none_envPos (x : Status) (s : State) : (raise x none s).envPos = s.envPos := rfl

@[simp] theorem raise_some_crc (x : Status) (c r : Half) (s : State) : (raise x (some (c, r)) s).crc = s.crc := rfl
@[simp] theorem raise_some_txstate (x : Status) (c r : Half) (s : State) : (raise x (some (c, r)) s).txstate = s.txstate := rfl
@[simp] theorem raise_some_txframe (x : Status) (c r : Half) (s : State) : (raise x (some (c, r)) s).txframe = s.txframe := rfl
@[simp] theorem raise_some_txtotal (x : Status) (c r : Half) (s : State) : (raise x (some (c, r)) s).txtotal = s.txtotal := rfl
@[simp] theorem raise_some_txpos (x : Status) (c r : Half) (s : State) : (raise x (some (c, r)) s).txpos = s.txpos := rfl
@[simp] theorem raise_some_utxsr (x : Status) (c r : Half) (s : State) : (raise x (some (c, r)) s).utxsr = s.utxsr := rfl
@[simp] theorem raise_some_utxn (x : Status) (c r : Half) (s : State) : (raise x (some (c, r)) s).utxn = s.utxn := rfl
@[simp] theorem raise_some_txd (x : Status) (c r : Half) (s : State) : (raise x (some (c, r)) s).txd = s.txd := rfl
@[simp] theorem raise_some_urxsr (x : Status) (c r : Half) (s : State) : (raise x (some (c, r)) s).urxsr = s.urxsr := rfl
@[simp] theorem raise_some_urxn (x : Status) (c r : Half) (s : State) : (raise x (some (c, r)) s).urxn = s.urxn := rfl
@[simp] theorem raise_some_rxfifo (x : Status) (c r : Half) (s : State) : (raise x (some (c, r)) s).rxfifo = s.rxfifo := rfl
@[simp] theorem raise_some_ferr (x : Status) (c r : Half) (s : State) : (raise x (some (c, r)) s).ferr = s.ferr := rfl
@[simp] theorem raise_some_ovr (x : Status) (c r : Half) (s : State) : (raise x (some (c, r)) s).ovr = s.ovr := rfl
@[simp] theorem raise_some_rxstate (x : Status) (c r : Half) (s : State) : (raise x (some (c, r)) s).rxstate = .done := rfl
@[simp] theorem raise_some_rxbuf (x : Status) (c r : Half) (s : State) : (raise x (some (c, r)) s).rxbuf = s.rxbuf := rfl
@[simp] theorem raise_some_rxcnt (x : Status) (c r : Half) (s : State) : (raise x (some (c, r)) s).rxcnt = s.rxcnt := rfl
@[simp] theorem raise_some_rxlen (x : Status) (c r : Half) (s : State) : (raise x (some (c, r)) s).rxlen = s.rxlen := rfl
@[simp] theorem raise_some_rxtotal (x : Status) (c r : Half) (s : State) : (raise x (some (c, r)) s).rxtotal = s.rxtotal := rfl
@[simp] theorem raise_some_rxtimer (x : Status) (c r : Half) (s : State) : (raise x (some (c, r)) s).rxtimer = s.rxtimer := rfl
@[simp] theorem raise_some_rxerr (x : Status) (c r : Half) (s : State) : (raise x (some (c, r)) s).rxerr = x := rfl
@[simp] theorem raise_some_crccalc (x : Status) (c r : Half) (s : State) : (raise x (some (c, r)) s).crccalc = c := rfl
@[simp] theorem raise_some_crcrecv (x : Status) (c r : Half) (s : State) : (raise x (some (c, r)) s).crcrecv = r := rfl
@[simp] theorem raise_some_answer (x : Status) (c r : Half) (s : State) : (raise x (some (c, r)) s).answer = s.answer := rfl
@[simp] theorem raise_some_tickDue (x : Status) (c r : Half) (s : State) : (raise x (some (c, r)) s).tickDue = s.tickDue := rfl
@[simp] theorem raise_some_inbox (x : Status) (c r : Half) (s : State) : (raise x (some (c, r)) s).inbox = s.inbox := rfl
@[simp] theorem raise_some_envPos (x : Status) (c r : Half) (s : State) : (raise x (some (c, r)) s).envPos = s.envPos := rfl

@[simp] theorem beginReceive_crc (s : State) : (beginReceive s).crc = s.crc := rfl
@[simp] theorem beginReceive_txstate (s : State) : (beginReceive s).txstate = s.txstate := rfl
@[simp] theorem beginReceive_txframe (s : State) : (beginReceive s).txframe = s.txframe := rfl
@[simp] theorem beginReceive_txtotal (s : State) : (beginReceive s).txtotal = s.txtotal := rfl
@[simp] theorem beginReceive_txpos (s : State) : (beginReceive s).txpos = s.txpos := rfl
@[simp] theorem beginReceive_utxsr (s : State) : (beginReceive s).utxsr = s.utxsr := rfl
@[simp] theorem beginReceive_utxn (s : State) : (beginReceive s).utxn = s.utxn := rfl
@[simp] theorem beginReceive_txd (s : State) : (beginReceive s).txd = s.txd := rfl
@[simp] theorem beginReceive_urxsr (s : State) : (beginReceive s).urxsr = s.urxsr := rfl
@[simp] theorem beginReceive_urxn (s : State) : (beginReceive s).urxn = s.urxn := rfl
@[simp] theorem beginReceive_rxfifo (s : State) : (beginReceive s).rxfifo = s.rxfifo := rfl
@[simp] theorem beginReceive_ferr (s : State) : (beginReceive s).ferr = false := rfl
@[simp] theorem beginReceive_ovr (s : State) : (beginReceive s).ovr = false := rfl
@[simp] theorem beginReceive_rxstate (s : State) : (beginReceive s).rxstate = .receiving := rfl
@[simp] theorem beginReceive_rxbuf (s : State) : (beginReceive s).rxbuf = [] := rfl
@[simp] theorem beginReceive_rxcnt (s : State) : (beginReceive s).rxcnt = 0 := rfl
@[simp] theorem beginReceive_rxlen (s : State) : (beginReceive s).rxlen = 0 := rfl
@[simp] theorem beginReceive_rxtotal (s : State) : (beginReceive s).rxtotal = 0 := rfl
@[simp] theorem beginReceive_rxtimer (s : State) : (beginReceive s).rxtimer = 0 := rfl
@[simp] theorem beginReceive_rxerr (s : State) : (beginReceive s).rxerr = .ok := rfl
@[simp] theorem beginReceive_crccalc (s : State) : (beginReceive s).crccalc = 0 := rfl
@[simp] theorem beginReceive_crcrecv (s : State) : (beginReceive s).crcrecv = 0 := rfl
@[simp] theorem beginReceive_answer (s : State) : (beginReceive s).answer = s.answer := rfl
@[simp] theorem beginReceive_tickDue (s : State) : (beginReceive s).tickDue = s.tickDue := rfl
@[simp] theorem beginReceive_inbox (s : State) : (beginReceive s).inbox = s.inbox := rfl
@[simp] theorem beginReceive_envPos (s : State) : (beginReceive s).envPos = s.envPos := rfl

@[simp] theorem resetBlock_crc (s : State) : (resetBlock s).crc = State.reset.crc := rfl
@[simp] theorem resetBlock_txstate (s : State) : (resetBlock s).txstate = State.reset.txstate := rfl
@[simp] theorem resetBlock_txframe (s : State) : (resetBlock s).txframe = State.reset.txframe := rfl
@[simp] theorem resetBlock_txtotal (s : State) : (resetBlock s).txtotal = State.reset.txtotal := rfl
@[simp] theorem resetBlock_txpos (s : State) : (resetBlock s).txpos = State.reset.txpos := rfl
@[simp] theorem resetBlock_utxsr (s : State) : (resetBlock s).utxsr = State.reset.utxsr := rfl
@[simp] theorem resetBlock_utxn (s : State) : (resetBlock s).utxn = State.reset.utxn := rfl
@[simp] theorem resetBlock_txd (s : State) : (resetBlock s).txd = State.reset.txd := rfl
@[simp] theorem resetBlock_urxsr (s : State) : (resetBlock s).urxsr = State.reset.urxsr := rfl
@[simp] theorem resetBlock_urxn (s : State) : (resetBlock s).urxn = State.reset.urxn := rfl
@[simp] theorem resetBlock_rxfifo (s : State) : (resetBlock s).rxfifo = State.reset.rxfifo := rfl
@[simp] theorem resetBlock_ferr (s : State) : (resetBlock s).ferr = State.reset.ferr := rfl
@[simp] theorem resetBlock_ovr (s : State) : (resetBlock s).ovr = State.reset.ovr := rfl
@[simp] theorem resetBlock_rxstate (s : State) : (resetBlock s).rxstate = State.reset.rxstate := rfl
@[simp] theorem resetBlock_rxbuf (s : State) : (resetBlock s).rxbuf = State.reset.rxbuf := rfl
@[simp] theorem resetBlock_rxcnt (s : State) : (resetBlock s).rxcnt = State.reset.rxcnt := rfl
@[simp] theorem resetBlock_rxlen (s : State) : (resetBlock s).rxlen = State.reset.rxlen := rfl
@[simp] theorem resetBlock_rxtotal (s : State) : (resetBlock s).rxtotal = State.reset.rxtotal := rfl
@[simp] theorem resetBlock_rxtimer (s : State) : (resetBlock s).rxtimer = State.reset.rxtimer := rfl
@[simp] theorem resetBlock_rxerr (s : State) : (resetBlock s).rxerr = State.reset.rxerr := rfl
@[simp] theorem resetBlock_crccalc (s : State) : (resetBlock s).crccalc = State.reset.crccalc := rfl
@[simp] theorem resetBlock_crcrecv (s : State) : (resetBlock s).crcrecv = State.reset.crcrecv := rfl
@[simp] theorem resetBlock_answer (s : State) : (resetBlock s).answer = State.reset.answer := rfl
@[simp] theorem resetBlock_tickDue (s : State) : (resetBlock s).tickDue = State.reset.tickDue := rfl
@[simp] theorem resetBlock_inbox (s : State) : (resetBlock s).inbox = s.inbox := rfl
@[simp] theorem resetBlock_envPos (s : State) : (resetBlock s).envPos = s.envPos := rfl

end Sys2Proof.Machine
end

