-- ==== Sys2Proof/Laws/Ops.lean ====
section
/-! SUPPORT. For each shared operation, one lemma that says once everything it can do; and the two inductions over a run of pops
and over arriving bytes, packaged once. -/

namespace Sys2Proof.Machine

theorem andThen_next_iff (r : Result) (f : State → Result) (t : State) :
    andThen r f = .next t ↔ ∃ s, r = .next s ∧ f s = .next t := by
  cases r <;> simp [andThen]

/-- The queue has room exactly when it holds fewer than `RX_FIFO_DEPTH` bytes (R34). -/
theorem hasRoom_iff (q : List Byte) (n : Nat) : hasRoom q n = true ↔ q.length < n + 1 := by
  induction q generalizing n with
  | nil => simp [hasRoom]
  | cons b q ih =>
    cases n with
    | zero => simp [hasRoom]
    | succ n => simp [hasRoom, ih]

theorem hasRoom_depth_iff (q : List Byte) : hasRoom q Config.rxFifoExtra = true ↔ q.length < Config.rxFifoDepth :=
  hasRoom_iff q Config.rxFifoExtra

/-- All that `pushByte` can do (R34, R222). -/
theorem pushByte_cases (b : Byte) (s : State) :
    (s.rxfifo.length < Config.rxFifoDepth ∧ pushByte b s = { s with rxfifo := s.rxfifo ++ [b] }) ∨
    (Config.rxFifoDepth ≤ s.rxfifo.length ∧ pushByte b s = { s with ovr := true }) := by
  unfold pushByte
  split
  · exact .inl ⟨(hasRoom_depth_iff _).1 ‹_›, rfl⟩
  · rename_i h
    exact .inr ⟨by rw [hasRoom_depth_iff] at h; omega, rfl⟩

/-- The frame of a payload that fits is stored whole (R152). -/
theorem memWrite_encodeFrame (payload : List Byte) (h : payload.length ≤ Config.maxPayload) :
    memWrite [] 0 (encodeFrame payload) = .ok (Memory.holding (encodeFrame payload)) := by
  have := encodeFrame_length_le payload h
  simp [memWrite, this, Memory.holding]

/-- All that TX_FRAME and a request can do (R152). -/
theorem sendFrame_cases (payload : List Byte) (s : State) :
    (Config.maxPayload < payload.length ∧ sendFrame payload s = .next (reply (.status .unsupportedFrame) s)) ∨
    (payload.length ≤ Config.maxPayload ∧ s.txstate = .sending ∧
      sendFrame payload s = .next (reply (.status .transportError) s)) ∨
    (payload.length ≤ Config.maxPayload ∧ s.txstate = .idle ∧
      sendFrame payload s = .next (reply (.status .ok)
        { s with txframe := Memory.holding (encodeFrame payload), txtotal := frameTotal payload.length, txpos := 0,
                 txstate := .sending })) := by
  unfold sendFrame
  split
  · exact .inl ⟨‹_›, rfl⟩
  · rename_i h
    have h : payload.length ≤ Config.maxPayload := by omega
    split
    · exact .inr (.inl ⟨h, ‹_›, rfl⟩)
    · refine .inr (.inr ⟨h, ?_, ?_⟩)
      · cases hs : s.txstate <;> simp_all
      · rw [memWrite_encodeFrame payload h]; rfl

/-- All that TX_EMIT can do (R154). -/
theorem txEmit_cases (s : State) :
    (txEmitEnabled s = false ∧ txEmit s = .next s) ∨
    (txEmitEnabled s = true ∧ ∃ b, s.txframe.read s.txpos.toNat = some b ∧
      txEmit s = .next { s with utxsr := charWord b, utxn := 10, txpos := s.txpos + 1 }) ∨
    (txEmitEnabled s = true ∧ s.txframe.read s.txpos.toNat = none ∧ txEmit s = .fault (.noValue s.txpos.toNat)) := by
  unfold txEmit
  split
  · rename_i h
    rcases readByte_cases s.txframe s.txpos.toNat with ⟨b, hb, hr⟩ | ⟨hb, hr⟩
    · exact .inr (.inl ⟨h, b, hb, by rw [hr]; rfl⟩)
    · exact .inr (.inr ⟨h, hb, by rw [hr]; rfl⟩)
  · rename_i h
    exact .inl ⟨by simpa using h, rfl⟩

theorem txEmitEnabled_iff (s : State) :
    txEmitEnabled s = true ↔ s.txstate = .sending ∧ s.txpos < s.txtotal ∧ s.utxn = 0 := by
  simp [txEmitEnabled, and_assoc]

/-- All that TX_FINISH can do (R156). -/
theorem txFinish_cases (s : State) :
    (txFinishEnabled s = false ∧ txFinish s = .next s) ∨
    (txFinishEnabled s = true ∧ txFinish s = .next { s with txstate := .idle }) := by
  unfold txFinish
  split
  · exact .inr ⟨‹_›, rfl⟩
  · rename_i h; exact .inl ⟨by simpa using h, rfl⟩

theorem txFinishEnabled_iff (s : State) :
    txFinishEnabled s = true ↔ s.txstate = .sending ∧ s.txpos = s.txtotal ∧ s.utxn = 0 := by
  simp [txFinishEnabled, and_assoc]

/-- All that UTX_BIT can do (R214). -/
theorem utxBit_cases (s : State) :
    (s.utxn = 0 ∧ utxBit s = { s with txd := true }) ∨
    (s.utxn ≠ 0 ∧ utxBit s =
      { s with txd := s.utxsr.getLsbD 0, utxsr := (s.utxsr >>> 1) ||| 0x200, utxn := s.utxn - 1 }) := by
  unfold utxBit
  split
  · exact .inl ⟨‹_›, rfl⟩
  · exact .inr ⟨‹_›, rfl⟩

/-- All that URX_BIT can do (R220, R221, R222). -/
theorem urxBit_cases (x : Bool) (s : State) :
    (s.urxn = 0 ∧ x = true ∧ urxBit x s = s) ∨
    (s.urxn = 0 ∧ x = false ∧ urxBit x s = { s with urxn := 1 }) ∨
    (s.urxn ≠ 0 ∧ s.urxn ≤ 8 ∧
      urxBit x s = { s with urxsr := putBit s.urxsr (s.urxn.toNat - 1) x, urxn := s.urxn + 1 }) ∨
    (8 < s.urxn ∧ x = false ∧ urxBit x s = { s with ferr := true, urxn := 0 }) ∨
    (8 < s.urxn ∧ x = true ∧ s.rxfifo.length < Config.rxFifoDepth ∧
      urxBit x s = { s with rxfifo := s.rxfifo ++ [s.urxsr], urxn := 0 }) ∨
    (8 < s.urxn ∧ x = true ∧ Config.rxFifoDepth ≤ s.rxfifo.length ∧ urxBit x s = { s with ovr := true, urxn := 0 }) := by
  unfold urxBit
  split
  · cases x <;> simp_all
  · split
    · exact .inr (.inr (.inl ⟨‹_›, ‹_›, rfl⟩))
    · rename_i h0 h
      have h : 8 < s.urxn := by simpa using h
      cases x with
      | false => exact .inr (.inr (.inr (.inl ⟨h, rfl, rfl⟩)))
      | true =>
        rcases pushByte_cases s.urxsr s with ⟨hr, hp⟩ | ⟨hr, hp⟩
        · exact .inr (.inr (.inr (.inr (.inl ⟨h, rfl, hr, by simp [stopBit, hp]⟩))))
        · exact .inr (.inr (.inr (.inr (.inr ⟨h, rfl, hr, by simp [stopBit, hp]⟩))))

/-- All that RX_START can do (R172). -/
theorem execRxStart_cases (s : State) :
    (s.rxstate = .receiving ∧ execRxStart s = .next (reply (.status .transportError) s)) ∨
    (s.rxstate ≠ .receiving ∧ execRxStart s = .next (reply (.status .ok) (beginReceive s))) := by
  unfold execRxStart
  split
  · exact .inl ⟨‹_›, rfl⟩
  · exact .inr ⟨‹_›, rfl⟩

/-- RX_READ changes nothing but the answer (R184). -/
theorem execRxRead_next (s t : State) (h : execRxRead s = .next t) : ∃ r, t = reply (.receive r) s := by
  unfold execRxRead at h
  split at h
  · cases h; exact ⟨_, rfl⟩
  · split at h
    · cases hp : payloadSlice s with
      | error e => simp [hp, orFault] at h
      | ok p => simp only [hp, orFault, Host.Outcome.next.injEq] at h; exact ⟨_, h.symm⟩
    · split at h
      · cases h; exact ⟨_, rfl⟩
      · cases h; exact ⟨_, rfl⟩

/-- All that the header step can answer (R177). -/
theorem rxHeader_next (s t : State) (h : rxHeader s = .next t) :
    (∃ len, s.rxbuf.read 0 = some Config.startShort ∧ s.rxbuf.read 1 = some len ∧
      t = { s with rxlen := len, rxtotal := declaredTotal len }) ∨
    (∃ start, s.rxbuf.read 0 = some start ∧ start ≠ Config.startShort ∧ t = raise .unsupportedFrame none s) := by
  unfold rxHeader at h
  rcases readByte_cases s.rxbuf 0 with ⟨b0, h0, hr0⟩ | ⟨h0, hr0⟩
  · simp only [hr0, orFault] at h
    split at h
    · rename_i hb
      subst hb
      rcases readByte_cases s.rxbuf 1 with ⟨b1, h1, hr1⟩ | ⟨h1, hr1⟩
      · simp only [hr1, Host.Outcome.next.injEq] at h
        exact .inl ⟨b1, h0, h1, h.symm⟩
      · simp [hr1] at h
    · cases h
      exact .inr ⟨b0, h0, ‹_›, rfl⟩
  · simp [hr0, orFault] at h

/-- All that the completion step can answer (R178). -/
theorem rxComplete_next (s t : State) (h : rxComplete s = .next t) :
    (∃ last, s.rxbuf.read (s.rxtotal.toNat - 1) = some last ∧ last ≠ Config.endMark ∧
      t = raise .malformedLength none s) ∨
    (s.rxbuf.read (s.rxtotal.toNat - 1) = some Config.endMark ∧ ∃ payload received, payloadSlice s = .ok payload ∧
      receivedChecksum s = .ok received ∧
      ((crc16 payload = received ∧
          t = { s with crccalc := crc16 payload, crcrecv := received, rxerr := .ok, rxstate := .done }) ∨
        (crc16 payload ≠ received ∧ t = raise .checksumMismatch (some (crc16 payload, received)) s))) := by
  unfold rxComplete at h
  rcases readByte_cases s.rxbuf (s.rxtotal.toNat - 1) with ⟨last, hl, hr⟩ | ⟨hl, hr⟩
  · simp only [hr, orFault] at h
    split at h
    · cases h
      exact .inl ⟨last, hl, ‹_›, rfl⟩
    · rename_i hm
      have hm : last = Config.endMark := by simpa using hm
      subst hm
      cases hp : payloadSlice s with
      | error e => simp [hp] at h
      | ok payload =>
        cases hc : receivedChecksum s with
        | error e => simp [hp, hc] at h
        | ok received =>
          simp only [hp, hc] at h
          refine .inr ⟨hl, payload, received, rfl, rfl, ?_⟩
          split at h
          · exact .inl ⟨‹_›, by simpa using h.symm⟩
          · exact .inr ⟨‹_›, by simpa using h.symm⟩
  · simp [hr, orFault] at h

/-- All that taking a byte can answer (R176): it is stored at `RXCNT`, and then the header step, the completion step or
nothing follows. -/
theorem takeByte_next (b : Byte) (s t : State) (h : takeByte b s = .next t) :
    s.rxcnt.toNat + 1 ≤ Config.frameMax ∧
    ((s.rxcnt + 1 = 2 ∧
        rxHeader { s with rxbuf := s.rxbuf.write s.rxcnt.toNat b, rxcnt := s.rxcnt + 1 } = .next t) ∨
      (s.rxcnt + 1 ≠ 2 ∧ 3 ≤ s.rxcnt + 1 ∧ s.rxcnt + 1 = s.rxtotal ∧
        rxComplete { s with rxbuf := s.rxbuf.write s.rxcnt.toNat b, rxcnt := s.rxcnt + 1 } = .next t) ∨
      (s.rxcnt + 1 ≠ 2 ∧ ¬(3 ≤ s.rxcnt + 1 ∧ s.rxcnt + 1 = s.rxtotal) ∧
        t = { s with rxbuf := s.rxbuf.write s.rxcnt.toNat b, rxcnt := s.rxcnt + 1 })) := by
  unfold takeByte at h
  rcases memWrite_cases s.rxbuf s.rxcnt.toNat [b] with ⟨hl, hw⟩ | ⟨hl, hw⟩
  · refine ⟨by simpa using hl, ?_⟩
    simp only [hw, orFault, Memory.writeBytes] at h
    split at h
    · exact .inl ⟨‹_›, h⟩
    · split at h
      · rename_i h3
        exact .inr (.inl ⟨‹_›, h3.1, h3.2, h⟩)
      · exact .inr (.inr ⟨‹_›, ‹_›, by simpa using h.symm⟩)
  · simp [hw, orFault] at h

theorem rxPopReady_iff (s : State) :
    rxPopReady s = true ↔ s.rxstate = .receiving ∧ s.rxfifo ≠ [] ∧ s.ferr = false ∧ s.ovr = false := by
  simp [rxPopReady, linkError, and_assoc]

theorem rxPopEnabled_iff (s : State) :
    rxPopEnabled s = true ↔
      s.rxstate = .receiving ∧ s.rxfifo ≠ [] ∧ s.ferr = false ∧ s.ovr = false ∧ popHeldBack s = false := by
  simp [rxPopEnabled, rxPopReady_iff, and_assoc]

/-- All that RX_POP can answer (R176). -/
theorem rxPop_cases (s : State) :
    (rxPopEnabled s = false ∧ rxPop s = .next s) ∨
    (rxPopEnabled s = true ∧ ∃ b q, s.rxfifo = b :: q ∧ rxPop s = takeByte b { s with rxfifo := q }) := by
  unfold rxPop
  split
  · rename_i h
    have hne := ((rxPopEnabled_iff s).1 h).2.1
    cases hq : s.rxfifo with
    | nil => exact absurd hq hne
    | cons b q => exact .inr ⟨h, b, q, rfl, rfl⟩
  · rename_i h; exact .inl ⟨by simpa using h, rfl⟩

/-- All that RX_LINKERR can do (R174). -/
theorem rxLinkErr_cases (s : State) :
    (rxLinkErrEnabled s = false ∧ rxLinkErr s = .next s) ∨
    (rxLinkErrEnabled s = true ∧ rxLinkErr s = .next (raise .transportError none s)) := by
  unfold rxLinkErr
  split
  · exact .inr ⟨‹_›, rfl⟩
  · rename_i h; exact .inl ⟨by simpa using h, rfl⟩

/-- All that a counted tick can do (R180). -/
theorem countTick_cases (s : State) :
    (s.rxstate ≠ .receiving ∧ countTick s = s) ∨
    (s.rxstate = .receiving ∧ s.rxtimer + 1 = Config.rxTimeout ∧
      countTick s = raise .timeout none { s with rxtimer := s.rxtimer + 1 }) ∨
    (s.rxstate = .receiving ∧ s.rxtimer + 1 ≠ Config.rxTimeout ∧ countTick s = { s with rxtimer := s.rxtimer + 1 }) := by
  unfold countTick
  split
  · split
    · exact .inr (.inl ⟨‹_›, ‹_›, rfl⟩)
    · exact .inr (.inr ⟨‹_›, ‹_›, rfl⟩)
  · exact .inl ⟨‹_›, rfl⟩

/-- All that RX_TICK can do (R180, R182). -/
theorem rxTick_cases (s : State) :
    (tickHeldBack s = true ∧ rxTick s = .next s) ∨
    (tickHeldBack s = false ∧ rxTick s = .next { countTick s with tickDue := false }) := by
  unfold rxTick
  split
  · exact .inl ⟨‹_›, rfl⟩
  · rename_i h; exact .inr ⟨by simpa using h, rfl⟩

/-- What every sample keeps, a run of samples keeps. -/
theorem urxSamples_keeps (P : State → Prop) (hu : ∀ x s, P s → P (urxBit x s)) (xs : List Bool) (s : State) (h : P s) :
    P (urxSamples xs s) := by
  induction xs generalizing s with
  | nil => exact h
  | cons x xs ih => exact ih (urxBit x s) (hu x s h)

/-- What every RX_POP keeps, a run of pops keeps. -/
theorem popAll_keeps (P : State → Prop) (hp : ∀ s t, P s → rxPop s = .next t → P t) (n : Nat) (s t : State) (h : P s)
    (ht : popAll n s = .next t) : P t := by
  induction n generalizing s with
  | zero => cases ht; exact h
  | succ n ih =>
    rw [popAll] at ht
    split at ht
    · obtain ⟨u, hu, hut⟩ := (andThen_next_iff _ _ _).1 ht
      exact ih u (hp s u h hu) hut
    · cases ht; exact h

/-- What every sample and every RX_POP keep, arriving bytes keep. -/
theorem deliver_keeps (P : State → Prop) (hu : ∀ x s, P s → P (urxBit x s)) (hp : ∀ s t, P s → rxPop s = .next t → P t)
    (bs : List Byte) (s t : State) (h : P s) (ht : deliver bs s = .next t) : P t := by
  induction bs generalizing s with
  | nil => cases ht; exact h
  | cons b bs ih =>
    obtain ⟨u, hbu, hut⟩ := (andThen_next_iff _ _ _).1 ht
    exact ih u (popAll_keeps P hp _ _ _ (urxSamples_keeps P hu _ s h) hbu) hut

/-- If RX_POP always answers from states with `P` and keeps `P`, so does a run of pops. -/
theorem popAll_answers (P : State → Prop) (hp : ∀ s, P s → ∃ t, rxPop s = .next t ∧ P t) (n : Nat) (s : State) (h : P s) :
    ∃ t, popAll n s = .next t ∧ P t := by
  induction n generalizing s with
  | zero => exact ⟨s, rfl, h⟩
  | succ n ih =>
    rw [popAll]
    split
    · obtain ⟨u, hu, hPu⟩ := hp s h
      obtain ⟨t, ht, hPt⟩ := ih u hPu
      exact ⟨t, (andThen_next_iff _ _ _).2 ⟨u, hu, ht⟩, hPt⟩
    · exact ⟨s, rfl, h⟩

/-- If RX_POP always answers from states with `P` and keeps `P`, and every sample keeps `P`, arriving bytes always answer. -/
theorem deliver_answers (P : State → Prop) (hu : ∀ x s, P s → P (urxBit x s))
    (hp : ∀ s, P s → ∃ t, rxPop s = .next t ∧ P t) (bs : List Byte) (s : State) (h : P s) :
    ∃ t, deliver bs s = .next t ∧ P t := by
  induction bs generalizing s with
  | nil => exact ⟨s, rfl, h⟩
  | cons b bs ih =>
    obtain ⟨u, hbu, hPu⟩ := popAll_answers P hp _ _ (urxSamples_keeps P hu (charSamples (charWord b)) s h)
    obtain ⟨t, hut, hPt⟩ := ih u hPu
    exact ⟨t, (andThen_next_iff _ _ _).2 ⟨u, hbu, hut⟩, hPt⟩

/-- All that a message does when it is executed or delivered: one of the shared operations (R90, R100). -/
theorem runMessage_cases (f : Format) (bytes : List Byte) (s : State) :
    (∃ a, runMessage f bytes s = .next (reply a s)) ∨
    (runMessage f bytes s = .next (reply .nothing { s with crc := Config.crcInit })) ∨
    (∃ b, runMessage f bytes s = .next (reply .nothing { s with crc := crcStep s.crc b })) ∨
    (∃ payload, runMessage f bytes s = sendFrame payload s) ∨
    (runMessage f bytes s = execRxStart s) ∨
    (runMessage f bytes s = execRxRead s) ∨
    (∃ bs, runMessage f bytes s = deliver bs s) ∨
    (∃ xs, runMessage f bytes s = .next (urxSamples xs s)) ∨
    (∃ r, runMessage f bytes s = .refused r) := by
  unfold runMessage
  cases decode f bytes with
  | error e =>
    cases f with
    | hostOp => exact .inr (.inr (.inr (.inr (.inr (.inr (.inr (.inr ⟨_, rfl⟩)))))))
    | frame => exact .inr (.inr (.inr (.inr (.inr (.inr (.inl ⟨_, rfl⟩))))))
    | payload => exact .inr (.inr (.inr (.inl ⟨_, rfl⟩)))
    | char =>
      simp only [undecoded]
      cases charContainer bytes with
      | none => exact .inr (.inr (.inr (.inr (.inr (.inr (.inr (.inr ⟨_, rfl⟩)))))))
      | some w => exact .inr (.inr (.inr (.inr (.inr (.inr (.inr (.inl ⟨_, rfl⟩)))))))
  | ok i =>
    cases i with
    | statRead | crcRead | reserved7 | reserved8 | reserved9 | reservedA | reservedB | reservedC | reservedD | reservedE
    | reservedF => exact .inl ⟨_, rfl⟩
    | crcInit => exact .inr (.inl rfl)
    | crcByte b => exact .inr (.inr (.inl ⟨b, rfl⟩))
    | txFrame p => exact .inr (.inr (.inr (.inl ⟨p, rfl⟩)))
    | cmdSetDuty w => exact .inr (.inr (.inr (.inl ⟨setDutyPayload w, rfl⟩)))
    | cmdSetCurrent w => exact .inr (.inr (.inr (.inl ⟨setCurrentPayload w, rfl⟩)))
    | cmdSetBrakeCurrent w => exact .inr (.inr (.inr (.inl ⟨setBrakeCurrentPayload w, rfl⟩)))
    | cmdSetRpm w => exact .inr (.inr (.inr (.inl ⟨setRpmPayload w, rfl⟩)))
    | cmdKeepalive => exact .inr (.inr (.inr (.inl ⟨keepalivePayload, rfl⟩)))
    | rxStart => exact .inr (.inr (.inr (.inr (.inl rfl))))
    | rxRead => exact .inr (.inr (.inr (.inr (.inr (.inl rfl)))))
    | frameShort _ _ | frameLong _ _ => exact .inr (.inr (.inr (.inr (.inr (.inr (.inl ⟨_, rfl⟩))))))
    | uartChar _ => exact .inr (.inr (.inr (.inr (.inr (.inr (.inr (.inl ⟨_, rfl⟩)))))))
    | cmdFwVersion r =>
      cases r with
      | none => exact .inr (.inr (.inr (.inl ⟨fwVersionPayload none, rfl⟩)))
      | some _ => exact .inr (.inr (.inr (.inr (.inr (.inr (.inl ⟨_, rfl⟩))))))
    | cmdGetValues r =>
      cases r with
      | none => exact .inr (.inr (.inr (.inl ⟨getValuesPayload none, rfl⟩)))
      | some _ => exact .inr (.inr (.inr (.inr (.inr (.inr (.inl ⟨_, rfl⟩))))))

/-- What a step does: the next event, taken from the state without it (R8). -/
theorem runNext_cons (s : State) (e : Event) (es : List Event) (h : s.inbox = e :: es) :
    runNext s = runEvent e (dropEvent s) := by
  simp [runNext, fetchEvent, h]

theorem runNext_nil (s : State) (h : s.inbox = []) : runNext s = runEvent (Config.environment s.envPos) (nextEnv s) := by
  simp [runNext, fetchEvent, h]

end Sys2Proof.Machine
end

