-- ==== Sys2Proof/Laws/PerInstr.lean ====
section
/-! SUPPORT. The per-instruction family of LAWS.json: the encoding of every instruction carries the fixed bits of its row of
spec/opcode_table.json. -/

namespace Sys2Proof.Laws

open Machine

/-- An instruction's first bytes as the opcode table numbers its bits: one byte, or two for a 10-bit character
(log entry 29). -/
def firstWord (i : Instr) : Nat :=
  match formatOf i with
  | .char => ((encode i).getD 0 0).toNat + 256 * ((encode i).getD 1 0).toNat
  | _ => ((encode i).getD 0 0).toNat

/-- The `mask` and `match` columns of `opcode_table.json`. -/
def tableRow : Instr → Nat × Nat
  | .statRead => (0xF, 0x0)
  | .crcInit => (0xF, 0x1)
  | .crcByte _ => (0xF, 0x2)
  | .crcRead => (0xF, 0x3)
  | .txFrame _ => (0xF, 0x4)
  | .rxStart => (0xF, 0x5)
  | .rxRead => (0xF, 0x6)
  | .reserved7 => (0xF, 0x7)
  | .reserved8 => (0xF, 0x8)
  | .reserved9 => (0xF, 0x9)
  | .reservedA => (0xF, 0xA)
  | .reservedB => (0xF, 0xB)
  | .reservedC => (0xF, 0xC)
  | .reservedD => (0xF, 0xD)
  | .reservedE => (0xF, 0xE)
  | .reservedF => (0xF, 0xF)
  | .frameShort _ _ => (0xFF, 0x02)
  | .frameLong _ _ => (0xFF, 0x03)
  | .uartChar _ => (0x201, 0x200)
  | .cmdFwVersion _ => (0xFF, 0x00)
  | .cmdGetValues _ => (0xFF, 0x04)
  | .cmdSetDuty _ => (0xFF, 0x05)
  | .cmdSetCurrent _ => (0xFF, 0x06)
  | .cmdSetBrakeCurrent _ => (0xFF, 0x07)
  | .cmdSetRpm _ => (0xFF, 0x08)
  | .cmdKeepalive => (0xFF, 0x1E)

namespace OpcodeRow

/-- The encoding of `i` matches its row of the opcode table under the row's mask. -/
def Statement (i : Instr) : Prop := firstWord i &&& (tableRow i).1 = (tableRow i).2

theorem statRead : Statement .statRead := by
  simp [Statement, firstWord, formatOf, encode, tableRow]
theorem crcInit : Statement .crcInit := by
  simp [Statement, firstWord, formatOf, encode, tableRow]
theorem crcByte (b : Byte) : Statement (.crcByte b) := by
  simp [Statement, firstWord, formatOf, encode, tableRow]
theorem crcRead : Statement .crcRead := by
  simp [Statement, firstWord, formatOf, encode, tableRow]
theorem txFrame (payload : List Byte) : Statement (.txFrame payload) := by
  simp [Statement, firstWord, formatOf, encode, tableRow]
theorem rxStart : Statement .rxStart := by
  simp [Statement, firstWord, formatOf, encode, tableRow]
theorem rxRead : Statement .rxRead := by
  simp [Statement, firstWord, formatOf, encode, tableRow]
theorem reserved7 : Statement .reserved7 := by
  simp [Statement, firstWord, formatOf, encode, tableRow]
theorem reserved8 : Statement .reserved8 := by
  simp [Statement, firstWord, formatOf, encode, tableRow]
theorem reserved9 : Statement .reserved9 := by
  simp [Statement, firstWord, formatOf, encode, tableRow]
theorem reservedA : Statement .reservedA := by
  simp [Statement, firstWord, formatOf, encode, tableRow]
theorem reservedB : Statement .reservedB := by
  simp [Statement, firstWord, formatOf, encode, tableRow]
theorem reservedC : Statement .reservedC := by
  simp [Statement, firstWord, formatOf, encode, tableRow]
theorem reservedD : Statement .reservedD := by
  simp [Statement, firstWord, formatOf, encode, tableRow]
theorem reservedE : Statement .reservedE := by
  simp [Statement, firstWord, formatOf, encode, tableRow]
theorem reservedF : Statement .reservedF := by
  simp [Statement, firstWord, formatOf, encode, tableRow]
theorem frameShort (payload : List Byte) (crc : Half) : Statement (.frameShort payload crc) := by
  simp [Statement, firstWord, formatOf, encode, tableRow, frameBytes, Config.startShort]
theorem frameLong (len : Half) (rest : List Byte) : Statement (.frameLong len rest) := by
  simp [Statement, firstWord, formatOf, encode, tableRow, Config.startLong]
theorem uartChar (d : Byte) : Statement (.uartChar d) := by
  have h : ∀ d : Byte, firstWord (.uartChar d) &&& 0x201 = 0x200 := by decide
  exact h d
theorem cmdFwVersion (response : Option FwVersion) : Statement (.cmdFwVersion response) := by
  cases response <;> simp [Statement, firstWord, formatOf, encode, tableRow, fwVersionPayload]
theorem cmdGetValues (response : Option Values) : Statement (.cmdGetValues response) := by
  cases response <;> simp [Statement, firstWord, formatOf, encode, tableRow, getValuesPayload]
theorem cmdSetDuty (duty : Word) : Statement (.cmdSetDuty duty) := by
  change (0x05 : Byte).toNat &&& 0xFF = 0x05
  decide
theorem cmdSetCurrent (current : Word) : Statement (.cmdSetCurrent current) := by
  change (0x06 : Byte).toNat &&& 0xFF = 0x06
  decide
theorem cmdSetBrakeCurrent (current : Word) : Statement (.cmdSetBrakeCurrent current) := by
  change (0x07 : Byte).toNat &&& 0xFF = 0x07
  decide
theorem cmdSetRpm (rpm : Word) : Statement (.cmdSetRpm rpm) := by
  change (0x08 : Byte).toNat &&& 0xFF = 0x08
  decide
theorem cmdKeepalive : Statement .cmdKeepalive := by
  simp [Statement, firstWord, formatOf, encode, tableRow, keepalivePayload]

end OpcodeRow

end Sys2Proof.Laws
end

