-- ==== Sys2Proof/Tests/Slice0.lean ====
section
/-! SUPPORT. The model's own tests: what WellFormed refuses, every constructor's word written out from the spec's encoding of it,
single steps against the vectors of spec/95_test_vectors.md, and for every statement with hypotheses a state that meets them. -/

namespace Sys2Proof.Tests

open Sys2Proof Machine

/-! ### WellFormed refuses an ill-formed term for each of its checks (R92, R93, R94) -/

/-- 256 payload bytes do not fit the one-byte length field (R93, conflict C1). -/
theorem test_wellformed_refuses_256_bytes : WellFormed (.frameShort (List.replicate 256 0x00) 0x0000) = false := by decide +kernel
theorem test_wellformed_accepts_255_bytes : WellFormed (.frameShort (List.replicate 255 0x00) 0x0000) = true := by decide +kernel
/-- `crc16([0x04]) = 0x4084`, not `0x4085` (T2). -/
theorem test_wellformed_refuses_wrong_checksum : WellFormed (.frameShort [0x04] 0x4085) = false := by decide
theorem test_wellformed_accepts_right_checksum : WellFormed (.frameShort [0x04] 0x4084) = true := by decide

/-! ### Every constructor's word, from the tables of R100, R92, R96, R91 and R240 to R251 -/

theorem test_decode_stat_read : decode .hostOp [0x0] = .ok .statRead := by decide
theorem test_decode_crc_init : decode .hostOp [0x1] = .ok .crcInit := by decide
theorem test_decode_crc_byte : decode .hostOp [0x2, 0x88] = .ok (.crcByte 0x88) := by decide
theorem test_decode_crc_read : decode .hostOp [0x3] = .ok .crcRead := by decide
theorem test_decode_tx_frame : decode .hostOp [0x4, 0x11, 0x13] = .ok (.txFrame [0x11, 0x13]) := by decide
theorem test_decode_rx_start : decode .hostOp [0x5] = .ok .rxStart := by decide
theorem test_decode_rx_read : decode .hostOp [0x6] = .ok .rxRead := by decide
theorem test_decode_reserved_7 : decode .hostOp [0x7] = .ok .reserved7 := by decide
theorem test_decode_reserved_8 : decode .hostOp [0x8] = .ok .reserved8 := by decide
theorem test_decode_reserved_9 : decode .hostOp [0x9] = .ok .reserved9 := by decide
theorem test_decode_reserved_a : decode .hostOp [0xA] = .ok .reservedA := by decide
theorem test_decode_reserved_b : decode .hostOp [0xB] = .ok .reservedB := by decide
theorem test_decode_reserved_c : decode .hostOp [0xC] = .ok .reservedC := by decide
theorem test_decode_reserved_d : decode .hostOp [0xD] = .ok .reservedD := by decide
theorem test_decode_reserved_e : decode .hostOp [0xE] = .ok .reservedE := by decide
theorem test_decode_reserved_f : decode .hostOp [0xF] = .ok .reservedF := by decide
/-- The frame of set current, 5 A (R248). -/
theorem test_decode_frame_short : decode .frame [0x02, 0x05, 0x06, 0x00, 0x00, 0x13, 0x88, 0x8B, 0x25, 0x03] =
    .ok (.frameShort [0x06, 0x00, 0x00, 0x13, 0x88] 0x8B25) := by decide
/-- The long-form stream of P6: length `00 01`. -/
theorem test_decode_frame_long : decode .frame [0x03, 0x00, 0x01, 0x04, 0x40, 0x84, 0x03] =
    .ok (.frameLong 0x0001 [0x04, 0x40, 0x84, 0x03]) := by decide
/-- Byte `0x84` on the line is `0 0 0 1 0 0 0 0 1 1`, the value `0x308` (T6), here in its container (log entry 29). -/
theorem test_decode_uart_char : decode .char [0x08, 0x03] = .ok (.uartChar 0x84) := by decide
theorem test_decode_fw_version_request : decode .payload [0x00] = .ok (.cmdFwVersion none) := by decide
/-- Major 5, minor 3 (R245). -/
theorem test_decode_fw_version_response :
    decode .payload [0x00, 0x05, 0x03] = .ok (.cmdFwVersion (some { major := 5, minor := 3 })) := by decide
theorem test_decode_get_values_request : decode .payload [0x04] = .ok (.cmdGetValues none) := by decide
theorem test_decode_set_duty : decode .payload [0x05, 0x00, 0x00, 0xC3, 0x50] = .ok (.cmdSetDuty 50000) := by decide
/-- -1 A is -1000 (R248). -/
theorem test_decode_set_current : decode .payload [0x06, 0xFF, 0xFF, 0xFC, 0x18] = .ok (.cmdSetCurrent (-1000)) := by decide
theorem test_decode_set_brake_current :
    decode .payload [0x07, 0x00, 0x00, 0x03, 0xE8] = .ok (.cmdSetBrakeCurrent 1000) := by decide
theorem test_decode_set_rpm : decode .payload [0x08, 0x00, 0x00, 0x0B, 0xB8] = .ok (.cmdSetRpm 3000) := by decide
theorem test_decode_keepalive : decode .payload [0x1E] = .ok .cmdKeepalive := by decide

/-- The sample get-values response of 95_test_vectors section 2.5, its 59 bytes. -/
def sampleResponse : List Byte :=
  [0x04, 0x00, 0xFD, 0x01, 0x2C, 0x00, 0x00, 0x00, 0x96, 0x00, 0x00, 0x00, 0x78, 0x00, 0x00, 0x00, 0x00,
   0x00, 0x00, 0x00, 0x00, 0x00, 0xFA, 0x00, 0x00, 0x0B, 0xB8, 0x00, 0xF1, 0x00, 0x00, 0x04, 0xD2, 0x00, 0x00, 0x00, 0x00,
   0x00, 0x00, 0x61, 0xA8, 0x00, 0x00, 0x00, 0x00, 0xFF, 0xFF, 0xFF, 0x9C, 0x00, 0x00, 0x13, 0x88, 0x00,
   0x00, 0xBE, 0xBC, 0x20, 0x07]

/-- The field values section 2.5 gives for it. -/
def sampleValues : Values where
  tempMosfet := 253
  tempMotor := 300
  avgMotorCurrent := 150
  avgInputCurrent := 120
  avgId := 0
  avgIq := 0
  dutyCycle := 250
  rpm := 3000
  inputVoltage := 241
  ampHours := 1234
  ampHoursCharged := 0
  wattHours := 25000
  wattHoursCharged := 0
  tachometer := -100
  tachometerAbs := 5000
  fault := 0
  pidPos := 12500000
  controllerId := 7

theorem test_decode_get_values_response : decode .payload sampleResponse = .ok (.cmdGetValues (some sampleValues)) := by decide
/-- `crc16` of the sample is `0x1EA7` (section 2.5). -/
theorem test_crc_of_get_values_response : crc16 sampleResponse = 0x1EA7 := by decide +kernel

/-! ### What the decoders refuse, by name -/

theorem test_decode_refuses_wide_code : decode .hostOp [0x10] = .error (.codeTooWide 0x10) := by decide
theorem test_decode_refuses_missing_operand : decode .hostOp [0x2] = .error .missingOperand := by decide
theorem test_decode_refuses_surplus_operand : decode .hostOp [0x5, 0x00] = .error .trailingBytes := by decide
theorem test_decode_refuses_start_byte : decode .frame [0x01, 0x00] = .error (.unsupportedStart 0x01) := by decide
/-- The damaged frame of P5. -/
theorem test_decode_refuses_checksum :
    decode .frame [0x02, 0x02, 0x00, 0x05, 0x40, 0x84, 0x03] = .error (.checksumMismatch 0x50A5 0x4084) := by decide
theorem test_decode_refuses_stop_bit : decode .char [0x08, 0x01] = .error .badStopBit := by decide
theorem test_decode_refuses_unlisted_id : decode .payload [0x01] = .error .notACommand := by decide

/-! ### The opcode table's words (30_encoding R102) -/

theorem test_table_word_host : decodeTableWord 8 0x6 = some .rxRead := by decide
theorem test_table_word_char : decodeTableWord 16 0x200 = some (.uartChar 0x00) := by decide

/-! ### The CRC unit: rows of T1 and T2 -/

theorem test_crc_step_shift_drops : crcStep 0xFFFF 0x00 = 0xE1F0 := by decide
theorem test_crc_step_mixed : crcStep 0x1234 0x56 = 0x3C40 := by decide
theorem test_crc_of_four_bytes : crc16 [0x01, 0x02, 0x03, 0x04] = 0x0D03 := by decide
theorem test_crc_of_residue : crc16 [0x00, 0x04, 0x40, 0x84] = 0x0000 := by decide
/-- T1, third row, as an operation. -/
theorem test_exec_crc_byte : exec (.crcByte 0x01) { State.reset with crc := 0x4084 } =
    .next { State.reset with crc := 0xDCE5 } := by rfl

/-! ### Small states -/

/-- The frame of T4 for payload `1E`. -/
def keepaliveFrame : List Byte := [0x02, 0x01, 0x1E, 0xF3, 0xFF, 0x03]

/-- After `TX_FRAME 1E` (P2). -/
def sending : State :=
  { State.reset with txframe := Memory.holding keepaliveFrame, txtotal := 6, txstate := .sending, answer := .status .ok }

/-- After `RX_START`. -/
def receiving : State := { State.reset with rxstate := .receiving }

/-- A receive operation with bytes accumulated, a length and a total, and bytes queued. -/
def midway (f : List Byte) (len : Byte) (total : BitVec 9) (queued : List Byte) : State :=
  { receiving with rxbuf := Memory.holding f, rxcnt := BitVec.ofNat 9 f.length, rxlen := len, rxtotal := total, rxfifo := queued }

/-- A receive operation that ended with `OK` and payload `1E`. -/
def doneOk : State :=
  { midway keepaliveFrame 1 6 [] with rxstate := .done, crccalc := 0xF3FF, crcrecv := 0xF3FF }

/-- A receive operation that ended with `ChecksumMismatch` (P5). -/
def doneMismatch : State :=
  { midway [0x02, 0x02, 0x00, 0x05, 0x40, 0x84, 0x03] 2 7 [] with
    rxstate := .done, rxerr := .checksumMismatch, crccalc := 0x50A5, crcrecv := 0x4084 }

/-- A queue with no room left, whatever the depth is. -/
def fullQueue : State := { State.reset with rxfifo := List.replicate Config.rxFifoDepth 0x55 }

/-! ### Single steps against the vectors of 95_test_vectors -/

/-- P2: the frame is loaded as listed. -/
theorem test_exec_tx_frame : exec (.txFrame [0x1E]) State.reset = .next sending := by rfl
/-- "`TX_SENDING`, `TX_FRAME` of 256 bytes: `UnsupportedFrame`; the length test comes first" (section 2.2). -/
theorem test_exec_tx_frame_long_busy (p : List Byte) (h : p.length = 256) : exec (.txFrame p) sending =
    .next { sending with answer := .status .unsupportedFrame } :=
  if_pos (h ▸ by decide)
/-- T6: byte `02` is loaded as `0x204`. -/
theorem test_tx_emit : runEvent .txEmit sending = .next { sending with utxsr := 0x204, utxn := 10, txpos := 1 } := by rfl
/-- "`TXPOS = 1`, `UTXN = 3`: not enabled" (section 2.2). -/
theorem test_tx_emit_busy : runEvent .txEmit { sending with txpos := 1, utxn := 3 } = .next { sending with txpos := 1, utxn := 3 } := by rfl
theorem test_tx_finish : runEvent .txFinish { sending with txpos := 6 } = .next { sending with txpos := 6, txstate := .idle } := by rfl
/-- T6, first two steps of byte `02`: `(0x302, 9, 0)`, `(0x381, 8, 0)`. -/
theorem test_utx_bit : runEvents [.utxBit, .utxBit] { sending with utxsr := 0x204, utxn := 10 } =
    .next { sending with utxsr := 0x381, utxn := 8, txd := false } := by rfl
/-- Samples `0 0 0 1 0 0 0 0 0 0`: stop sample 0, nothing pushed, `FERR = 1` (section 2.4). -/
theorem test_urx_framing_error :
    runEvents ([false, false, false, true, false, false, false, false, false, false].map Event.urxBit) State.reset =
      .next { State.reset with urxsr := 0x04, ferr := true } := by rfl
/-- Samples `0 0 1 0 0 0 0 0 0 1` push `02` (section 2.4). -/
theorem test_exec_uart_char : exec (.uartChar 0x02) State.reset = .next { State.reset with urxsr := 0x02, rxfifo := [0x02] } := by rfl
theorem test_exec_rx_start : exec .rxStart { doneOk with ferr := true } =
    .next { receiving with answer := .status .ok } := by rfl
theorem test_exec_rx_start_refused : exec .rxStart receiving = .next { receiving with answer := .status .transportError } := by rfl
theorem test_exec_rx_read_ok : exec .rxRead doneOk = .next { doneOk with answer := .receive (.okPayload [0x1E] 0xF3FF 0xF3FF) } := by rfl
theorem test_exec_rx_read_mismatch : exec .rxRead doneMismatch =
    .next { doneMismatch with answer := .receive (.mismatch 0x50A5 0x4084) } := by rfl
/-- "`RXBUF[0..1] = 03 01`: `RXSTATE = RX_DONE`, `RXERR = 3`" (R177). -/
theorem test_rx_pop_unsupported : runEvent .rxPop (midway [0x03] 0 0 [0x01]) =
    .next { midway [0x03, 0x01] 0 0 [] with rxstate := .done, rxerr := .unsupportedFrame } := by rfl
/-- The last byte of P5: computed `50A5`, received `4084`. -/
theorem test_rx_pop_mismatch : runEvent .rxPop (midway [0x02, 0x02, 0x00, 0x05, 0x40, 0x84] 2 7 [0x03]) = .next doneMismatch := by rfl
/-- P9, order B: the 100th tick comes first and the byte stays queued. It is held back only under `pop_first`. -/
theorem test_rx_tick_timeout : runEvent .rxTick { receiving with rxtimer := 99 } =
    .next { receiving with rxtimer := 100, rxerr := .timeout, rxstate := .done } := by rfl
/-- `STATUS` of "receive operation in progress, bytes queued, framing error flagged": `0x1A` (section 2.6). -/
theorem test_exec_stat_read : exec .statRead { receiving with rxfifo := [0x02], ferr := true } =
    .next { receiving with rxfifo := [0x02], ferr := true, answer := .statusView 0x1A } := by rfl
theorem test_exec_reserved : exec .reservedB doneOk = .next doneOk := by rfl
/-- The sample frame of R187 as one message. -/
theorem test_exec_frame_short : exec (.frameShort [0x00, 0x04] 0x4084) receiving =
    .next { midway [0x02, 0x02, 0x00, 0x04, 0x40, 0x84, 0x03] 2 7 [] with
      urxsr := 0x03, rxstate := .done, crccalc := 0x4084, crcrecv := 0x4084 } := by rfl
/-- The request of R246 is sent as `02 01 04 40 84 03`. -/
theorem test_exec_get_values_request : exec (.cmdGetValues none) State.reset =
    .next { State.reset with txframe := Memory.holding [0x02, 0x01, 0x04, 0x40, 0x84, 0x03], txtotal := 6, txstate := .sending,
                             answer := .status .ok } := by rfl
/-- Set duty 0.5: `02 05 05 00 00 C3 50 3A A5 03` (T4). -/
theorem test_exec_set_duty : exec (.cmdSetDuty 50000) State.reset =
    .next { State.reset with
      txframe := Memory.holding [0x02, 0x05, 0x05, 0x00, 0x00, 0xC3, 0x50, 0x3A, 0xA5, 0x03], txtotal := 10, txstate := .sending,
      answer := .status .ok } := by rfl
/-- An `i16` of `FF 38` is -200; the tachometer field of the sample is -100 (section 2.5). -/
theorem test_signed_fields : signed16 0xFF38 = -200 ∧ signed32 sampleValues.tachometer = -100 := by decide
/-- Reset in the middle of a character: the framer is idle and the line is at 1 (section 2.7). -/
theorem test_reset_in_the_middle : runEvent .reset { sending with txpos := 1, utxn := 6, txd := false } = .next State.reset := by rfl

/-! ### For every statement with hypotheses, a state and operands that meet them, each clause at a boundary of its range -/

theorem test_witness_OnlyCrcOperationsWriteCrc :
    runEvent (.message .hostOp [0x6]) { State.reset with crc := 0x1021 } =
      .next { State.reset with crc := 0x1021, answer := .receive (.stateOnly .idle) } ∧
    Event.message .hostOp [0x6] ≠ .reset ∧
    ∀ f bytes, Event.message .hostOp [0x6] = .message f bytes →
      decode f bytes ≠ .ok .crcInit ∧ ∀ b, decode f bytes ≠ .ok (.crcByte b) := by
  refine ⟨by rfl, by decide, ?_⟩
  intro f bytes h
  cases h
  exact ⟨by decide, fun b => by simp [decode, decodeHostOp, noOperand]⟩

theorem test_witness_lengths : [(0x04 : Byte)].length = [(0x80 : Byte)].length ∧ 2 < 3 ∧ 0 < [(0x04 : Byte)].length ∧ 7 < 8 := by
  decide

theorem test_witness_payload_bounds :
    ([] : List Byte).length ≤ 255 ∧ (List.replicate 255 (0xFF : Byte)).length ≤ 255 ∧ 256 ≤ (List.replicate 256 (0xFF : Byte)).length := by
  simp only [List.length_replicate, List.length_nil]
  decide

/-- FlippedBitIsRejected: the first and the last byte of the region, for payload `1E`. -/
theorem test_witness_FlippedBitIsRejected :
    [(0x1E : Byte)].length ≤ 255 ∧ 2 ≤ 2 ∧ 4 < [(0x1E : Byte)].length + 4 ∧ 0 < 8 ∧ 7 < 8 := by decide

theorem test_witness_TxFrameOutcomes :
    255 < (List.replicate 256 (0x00 : Byte)).length ∧
    ((List.replicate 255 (0x00 : Byte)).length ≤ 255 ∧ sending.txstate = .sending ∧ State.reset.txstate = .idle) := by
  simp only [List.length_replicate]
  decide

theorem test_witness_CommandRequestsAreSent : State.reset.txstate = .idle ∧ sending.txstate = .sending := by decide

/-- TxEmitLoadsCharacter, at the first and the last byte of the frame. -/
theorem test_witness_TxEmitLoadsCharacter :
    (sending.txstate = .sending ∧ sending.txpos < sending.txtotal ∧ sending.utxn = 0 ∧
      sending.txframe.read sending.txpos.toNat = some 0x02) ∧
    sending.txframe.read 5 = some 0x03 ∧ (5 : BitVec 9) < sending.txtotal := by decide

theorem test_witness_TxFinishEndsFrame :
    { sending with txpos := 6 }.txstate = .sending ∧ { sending with txpos := 6 }.txpos = sending.txtotal ∧ sending.utxn = 0 := by
  decide

theorem test_witness_DisabledStepsAreNotTaken :
    ¬(sending.txstate = .sending ∧ sending.txpos = sending.txtotal ∧ sending.utxn = 0) ∧
    ¬({ sending with txpos := 6 }.txstate = .sending ∧ { sending with txpos := 6 }.txpos < sending.txtotal ∧ sending.utxn = 0) ∧
    ¬({ midway [] 0 0 [0x02] with ferr := true }.rxstate = .receiving ∧ { midway [] 0 0 [0x02] with ferr := true }.rxfifo ≠ [] ∧
      { midway [] 0 0 [0x02] with ferr := true }.ferr = false ∧ { midway [] 0 0 [0x02] with ferr := true }.ovr = false) ∧
    ¬(doneOk.rxstate = .receiving ∧ (doneOk.ferr = true ∨ doneOk.ovr = true)) := by decide

theorem test_witness_UtxBitDrivesLine : sending.utxn = 0 ∧ { sending with utxn := 1 }.utxn ≠ 0 := by decide

theorem test_witness_TenBitsDriveCharacter :
    { sending with utxsr := 0x204, utxn := 10 }.utxsr = charWord 0x02 ∧ { sending with utxsr := 0x204, utxn := 10 }.utxn = 10 := by
  decide

theorem test_witness_LineCarriesTheFrame :
    [(0x1E : Byte)].length ≤ 255 ∧ State.reset.txstate = .idle ∧ State.reset.utxn = 0 ∧
    exec (.txFrame [0x1E]) State.reset = .next sending ∧ [0, 3, 0, 0, 1, 0].length = [(0x1E : Byte)].length + 5 :=
  ⟨by decide, by decide, by decide, by rfl, by decide⟩

theorem test_witness_UrxBitCases :
    State.reset.urxn = 0 ∧ { State.reset with urxn := 9 }.urxn = 9 ∧
    ((1 : BitVec 4) ≤ { State.reset with urxn := 1 }.urxn ∧ { State.reset with urxn := 8 }.urxn ≤ 8) ∧
    { State.reset with urxn := 9 }.rxfifo.length < Config.rxFifoDepth ∧
    Config.rxFifoDepth ≤ { fullQueue with urxn := 9 }.rxfifo.length :=
  ⟨by decide, by decide, by decide, Nat.succ_pos _, by simp [fullQueue]⟩

theorem test_witness_UartCharIsReceived :
    (State.reset.urxn = 0 ∧ State.reset.rxfifo.length < Config.rxFifoDepth) ∧
    (fullQueue.urxn = 0 ∧ Config.rxFifoDepth ≤ fullQueue.rxfifo.length) :=
  ⟨⟨by decide, Nat.succ_pos _⟩, by rfl, by simp [fullQueue]⟩

theorem test_witness_RxStartOutcomes : receiving.rxstate = .receiving ∧ doneOk.rxstate ≠ .receiving := by decide

theorem test_witness_RxReadOutcomes :
    receiving.rxstate ≠ .done ∧
    (doneOk.rxstate = .done ∧ doneOk.rxerr = .ok ∧ memRead doneOk.rxbuf 2 doneOk.rxlen.toNat = .ok [0x1E]) ∧
    (doneMismatch.rxstate = .done ∧ doneMismatch.rxerr = .checksumMismatch) ∧
    ({ doneOk with rxerr := .timeout }.rxstate = .done ∧ { doneOk with rxerr := .timeout }.rxerr ≠ .ok ∧
      { doneOk with rxerr := .timeout }.rxerr ≠ .checksumMismatch) := by decide

/-- A receive operation in progress, with a framing error flagged and a tick to come, meets the invariant. -/
theorem test_witness_Inv_receiving : Inv { receiving with ferr := true, inbox := [.rxTick] } where
  tx := ⟨by decide, by decide, by decide, by decide, by decide, by decide⟩
  inFlight := nofun
  rx := ⟨by decide, by decide, by decide, Nat.zero_le _, by decide,
    fun _ => ⟨by decide, by decide, by decide, fun h => absurd h (by decide)⟩, nofun, nofun⟩

/-- A frame in flight and a receive operation that ended with `OK` meet the invariant together. -/
theorem test_witness_Inv_doneOk :
    Inv { doneOk with txframe := sending.txframe, txtotal := 6, txstate := .sending } where
  tx := ⟨by decide, by decide, by decide, by decide, by decide, by decide⟩
  inFlight := fun _ => ⟨[0x1E], by decide, by decide, by decide⟩
  rx := ⟨by decide, by decide, by decide, Nat.zero_le _, by decide, nofun,
    fun _ _ => ⟨by decide, by decide, by decide, ⟨[0x1E], by decide⟩, ⟨[0x1E], by decide⟩⟩,
    fun _ h => absurd rfl h⟩

theorem test_witness_RxReadCompletes :
    { doneOk with txframe := sending.txframe, txtotal := 6, txstate := .sending }.rxstate = .done ∧
    { doneOk with txframe := sending.txframe, txtotal := 6, txstate := .sending }.rxerr = .ok := by decide

theorem test_witness_RxLinkErrRaises :
    { receiving with ferr := true }.rxstate = .receiving ∧
    ({ receiving with ferr := true }.ferr = true ∨ { receiving with ferr := true }.ovr = true) := by decide

/-- The common premises of RxPopOutcomes. -/
abbrev PopPremises (s : State) (b : Byte) (q f : List Byte) : Prop :=
  s.rxstate = .receiving ∧ s.rxfifo = b :: q ∧ s.ferr = false ∧ s.ovr = false ∧ popHeldBack s = false ∧
    s.rxbuf = Memory.holding f ∧ f.length = s.rxcnt.toNat ∧ f.length < 260

/-- The longest frame one byte before its end: 255 payload bytes of zero, whose checksum is zero. -/
def longest : List Byte := 0x02 :: 0xFF :: List.replicate 257 0x00

theorem test_witness_RxPop_first : PopPremises (midway [] 0 0 [0x02, 0x01]) 0x02 [0x01] [] ∧ ([] : List Byte).length = 0 := by
  refine ⟨⟨rfl, rfl, rfl, rfl, rfl, rfl, rfl, ?_⟩, rfl⟩
  decide

theorem test_witness_RxPop_header : PopPremises (midway [0x02] 0 0 [0x01]) 0x01 [] [0x02] := by
  refine ⟨rfl, rfl, rfl, rfl, rfl, rfl, rfl, ?_⟩
  decide

theorem test_witness_RxPop_unsupported :
    PopPremises (midway [0x03] 0 0 [0x01]) 0x01 [] [0x03] ∧ ([0x03] : List Byte) = [0x03] ∧ (0x03 : Byte) ≠ 0x02 := by
  refine ⟨⟨rfl, rfl, rfl, rfl, rfl, rfl, rfl, ?_⟩, rfl, ?_⟩ <;> decide

theorem test_witness_RxPop_middle :
    PopPremises (midway [0x02, 0x00] 0 5 [0x00]) 0x00 [] [0x02, 0x00] ∧ 2 ≤ ([0x02, 0x00] : List Byte).length ∧
    (midway [0x02, 0x00] 0 5 [0x00]).rxcnt + 1 ≠ (midway [0x02, 0x00] 0 5 [0x00]).rxtotal := by
  refine ⟨⟨rfl, rfl, rfl, rfl, rfl, rfl, rfl, ?_⟩, ?_, ?_⟩ <;> decide

theorem test_witness_RxPop_wrong_end :
    PopPremises (midway [0x02, 0x00, 0x00, 0x00] 0 5 [0x02]) 0x02 [] [0x02, 0x00, 0x00, 0x00] ∧
    (midway [0x02, 0x00, 0x00, 0x00] 0 5 [0x02]).rxcnt + 1 = (midway [0x02, 0x00, 0x00, 0x00] 0 5 [0x02]).rxtotal ∧
    (0x02 : Byte) ≠ 0x03 := by
  refine ⟨⟨rfl, rfl, rfl, rfl, rfl, rfl, rfl, ?_⟩, ?_, ?_⟩ <;> decide

theorem test_witness_RxPop_complete :
    PopPremises (midway longest 0xFF 260 [0x03]) 0x03 [] longest ∧
    (midway longest 0xFF 260 [0x03]).rxcnt + 1 = (midway longest 0xFF 260 [0x03]).rxtotal ∧
    (midway longest 0xFF 260 [0x03]).rxtotal.toNat = (midway longest 0xFF 260 [0x03]).rxlen.toNat + 5 ∧
    (List.replicate 255 (0x00 : Byte)).length = (midway longest 0xFF 260 [0x03]).rxlen.toNat ∧
    longest.drop 2 = List.replicate 255 0x00 ++ [0x00, 0x00] := by
  decide +kernel

theorem test_witness_RxPopStoresOneByte :
    PopPremises (midway [] 0 0 [0x02]) 0x02 [] [] ∧ runEvent .rxPop (midway [] 0 0 [0x02]) = .next (midway [0x02] 0 0 []) := by
  refine ⟨⟨rfl, rfl, rfl, rfl, rfl, rfl, rfl, ?_⟩, by rfl⟩
  decide

theorem test_witness_RxTickOutcomes :
    (doneOk.rxfifo = [] ∧ doneOk.rxstate ≠ .receiving) ∧
    (receiving.rxfifo = [] ∧ receiving.rxstate = .receiving ∧ receiving.rxtimer ≠ 99) ∧
    ({ receiving with rxtimer := 99 }.rxfifo = [] ∧ { receiving with rxtimer := 99 }.rxtimer = 99) := by decide

/-- A byte queued and a tick due, in a state that meets the invariant. -/
theorem test_witness_TickOrderDecides :
    Inv { midway [] 0 0 [0x02] with tickDue := true } ∧
    { midway [] 0 0 [0x02] with tickDue := true }.rxstate = .receiving ∧
    { midway [] 0 0 [0x02] with tickDue := true }.rxfifo ≠ [] ∧ { midway [] 0 0 [0x02] with tickDue := true }.ferr = false ∧
    { midway [] 0 0 [0x02] with tickDue := true }.ovr = false ∧ { midway [] 0 0 [0x02] with tickDue := true }.tickDue = true := by
  refine ⟨⟨⟨?_, ?_, ?_, ?_, ?_, ?_⟩, nofun, ⟨?_, ?_, ?_, Nat.succ_le_succ (Nat.zero_le _), ?_,
    fun _ => ⟨?_, ?_, ?_, fun h => absurd h (by decide)⟩, nofun, nofun⟩⟩, ?_⟩ <;> decide

theorem test_witness_HundredTicksEndTheOperation :
    receiving.rxstate = .receiving ∧ receiving.rxtimer = 0 ∧ (Config.rxTickOrder ≠ .popFirst ∨ receiving.rxfifo = []) ∧
    0 < 1 ∧ 99 < 100 ∧ 100 ≤ 100 :=
  ⟨by decide, by decide, Or.inr (by decide), by decide, by decide, by decide⟩

theorem test_witness_ReceiveAlwaysEnds :
    (Config.rxTickOrder ≠ .popFirst ∨
      ({ receiving with rxtimer := 98 }.rxfifo = [] ∧ ∀ e ∈ [Event.rxTick, .utxBit, .rxTick], bringsNothing e = true)) ∧
    { receiving with rxtimer := 98 }.rxstate = .receiving ∧ { receiving with rxtimer := 98 }.rxtimer < 100 ∧
    runEvents [.rxTick, .utxBit, .rxTick] { receiving with rxtimer := 98 } =
      .next { receiving with rxtimer := 100, rxerr := .timeout, rxstate := .done } ∧
    100 ≤ { receiving with rxtimer := 98 }.rxtimer.toNat + [Event.rxTick, .utxBit, .rxTick].count .rxTick :=
  ⟨Or.inr ⟨by decide, by decide⟩, by decide, by decide, by rfl, by decide⟩

theorem test_witness_ResultStaysUntilStart :
    doneOk.rxstate = .done ∧ runEvent .rxTick doneOk = .next doneOk ∧ Event.rxTick ≠ .reset ∧
    ∀ f bytes, Event.rxTick = .message f bytes → decode f bytes ≠ .ok .rxStart :=
  ⟨by decide, by rfl, by decide, nofun⟩

theorem test_witness_FreshReceive : FreshReceive receiving where
  receiving := by decide
  count := by decide
  buffer := by decide
  queue := by decide
  between := by decide
  noError := by decide
  popFree := by rfl

/-- DeframerFollowsDecode, the clause of the `Timeout` verdict: no byte at all, and a frame one byte short (T5, S6). -/
theorem test_witness_DeframerFollowsDecode :
    (decodeStream []).1 = .timeout ∧ (decodeStream [0x02, 0x02, 0x00, 0x04, 0x40, 0x84]).1 = .timeout ∧
    receiving.rxtimer < 100 := by decide

/-- FramesContinueAnOperation: nothing consumed, the start byte consumed, and one byte short of the end. -/
theorem test_witness_UnderWay :
    UnderWay receiving [] ∧ UnderWay (midway [0x02] 0 0 []) [0x02] ∧
    UnderWay (midway [0x02, 0x02, 0x00, 0x04, 0x40, 0x84] 2 7 []) [0x02, 0x02, 0x00, 0x04, 0x40, 0x84] := by
  refine ⟨⟨?_, ?_, ?_, ?_, nofun, ?_, ?_, ?_, rfl⟩, ⟨?_, ?_, ?_, ?_, nofun, ?_, ?_, ?_, rfl⟩,
    ⟨?_, ?_, ?_, ?_, fun _ _ _ h => by cases h; decide, ?_, ?_, ?_, rfl⟩⟩ <;> decide

theorem test_witness_FrameMessageIsDelivered : doneOk.rxfifo.length < 1 ∧ (midway [] 0 0 [0x02]).rxfifo.length < 2 := by decide

theorem test_witness_Unattended : Unattended State.reset ∧ Unattended doneOk ∧ Unattended fullQueue :=
  ⟨⟨by decide, by decide⟩, ⟨by decide, by decide⟩, ⟨by simp [fullQueue, State.reset], by rfl⟩⟩

theorem test_witness_PathsAreIndependent :
    runEvent .txFinish { sending with txpos := 6 } = .next { sending with txpos := 6, txstate := .idle } ∧
    runEvent (.urxBit false) receiving = .next { receiving with urxn := 1 } ∧
    runEvent (.message .hostOp [0x5]) doneOk = .next { receiving with answer := .status .ok } ∧
    decode .hostOp [0x5] = .ok .rxStart :=
  ⟨by rfl, by rfl, by rfl, by decide⟩

theorem test_witness_FetchedWordRuns : decodeTableWord 8 0xB = some .reservedB ∧ decodeTableWord 16 0x3FE = some (.uartChar 0xFF) := by
  decide

theorem test_witness_StepRunsDecodedInstruction :
    { State.reset with inbox := [.message .payload [0x1E], .txEmit] }.inbox = [.message .payload [0x1E], .txEmit] ∧
    decode .payload [0x1E] = .ok .cmdKeepalive ∧ WellFormed .cmdKeepalive = true ∧ State.reset.inbox = [] := by decide

theorem test_witness_StepKeepsInvariant :
    Inv { receiving with ferr := true, inbox := [.rxTick] } ∧
    step { receiving with ferr := true, inbox := [.rxTick] } = .next { receiving with ferr := true, rxtimer := 1 } :=
  ⟨test_witness_Inv_receiving, by rfl⟩

theorem test_witness_OnlyMalformedMessagesAreRefused :
    runEvent (.message .hostOp []) State.reset = .refused (.notAnOperation []) ∧
    runEvent (.message .char [0x00, 0x04]) State.reset = .refused (.notACharacter [0x00, 0x04]) :=
  ⟨by rfl, by rfl⟩

end Sys2Proof.Tests
end

section
/-! Statements of spec/00_scope.md: what a step takes (R8, R90), and that a step which is not enabled is not taken (R10). -/

namespace Sys2Proof.Machine

/-! ### What taking an event is -/

@[simp] theorem runEvent_message (f : Format) (bytes : List Byte) (s : State) :
    runEvent (.message f bytes) s = runMessage f bytes s := rfl
@[simp] theorem runEvent_txEmit (s : State) : runEvent .txEmit s = txEmit s := rfl
@[simp] theorem runEvent_txFinish (s : State) : runEvent .txFinish s = txFinish s := rfl
@[simp] theorem runEvent_rxPop (s : State) : runEvent .rxPop s = rxPop s := rfl
@[simp] theorem runEvent_rxLinkErr (s : State) : runEvent .rxLinkErr s = rxLinkErr s := rfl

theorem runMessage_of_decode {f : Format} {bytes : List Byte} {i : Instr} (h : decode f bytes = .ok i) (s : State) :
    runMessage f bytes s = exec i s := by
  simp only [runMessage, h]

theorem dropEvent_of_inbox_cons {s : State} {e : Event} {rest : List Event} (h : s.inbox = e :: rest) :
    dropEvent s = { s with inbox := rest } := by
  simp only [dropEvent, h, List.tail_cons]

/-- With an event waiting, the oldest is taken (R8, log entry 1). -/
theorem step_of_inbox_cons {s : State} {e : Event} {rest : List Event} (h : s.inbox = e :: rest) :
    step s = runEvent e { s with inbox := rest } := by
  rw [← dropEvent_of_inbox_cons h]
  exact runNext_cons s e rest h

/-- With nothing waiting, the free environment supplies the event (R8, log entry 2). -/
theorem step_of_inbox_nil {s : State} (h : s.inbox = []) :
    step s = runEvent (Config.environment s.envPos) { s with envPos := s.envPos + 1 } :=
  runNext_nil s h

/-! ### A step that is not enabled is not taken -/

theorem rxLinkErrEnabled_iff (s : State) :
    rxLinkErrEnabled s = true ↔ s.rxstate = .receiving ∧ (s.ferr = true ∨ s.ovr = true) := by
  simp [rxLinkErrEnabled, linkError]

theorem txEmit_of_not_enabled {s : State} (h : ¬txEmitEnabled s = true) : txEmit s = .next s := by
  obtain ⟨-, hstay⟩ | ⟨hen, -⟩ | ⟨hen, -⟩ := txEmit_cases s
  · exact hstay
  · exact absurd hen h
  · exact absurd hen h

theorem txFinish_of_not_enabled {s : State} (h : ¬txFinishEnabled s = true) : txFinish s = .next s := by
  obtain ⟨-, hstay⟩ | ⟨hen, -⟩ := txFinish_cases s
  · exact hstay
  · exact absurd hen h

theorem rxPop_of_not_enabled {s : State} (h : ¬rxPopEnabled s = true) : rxPop s = .next s := by
  obtain ⟨-, hstay⟩ | ⟨hen, -⟩ := rxPop_cases s
  · exact hstay
  · exact absurd hen h

theorem rxLinkErr_of_not_enabled {s : State} (h : ¬rxLinkErrEnabled s = true) : rxLinkErr s = .next s := by
  obtain ⟨-, hstay⟩ | ⟨hen, -⟩ := rxLinkErr_cases s
  · exact hstay
  · exact absurd hen h

/-- A byte that is not ready is not popped, whatever `RX_TICK_ORDER` says (R176, R182). -/
theorem rxPop_of_not_ready {s : State} (h : ¬rxPopReady s = true) : rxPop s = .next s := by
  refine rxPop_of_not_enabled fun hen => h ?_
  obtain ⟨hrx, hq, hferr, hovr, -⟩ := (rxPopEnabled_iff s).1 hen
  exact (rxPopReady_iff s).2 ⟨hrx, hq, hferr, hovr⟩

/-- Settles O26: each enabling condition of R154, R156, R176 and R174, negated, leaves its step not taken. -/
theorem disabledStepsAreNotTaken : Obligations.DisabledStepsAreNotTaken := by
  intro s
  rw [runEvent_txEmit, runEvent_txFinish, runEvent_rxPop, runEvent_rxLinkErr,
    ← txEmitEnabled_iff, ← txFinishEnabled_iff, ← rxPopReady_iff, ← rxLinkErrEnabled_iff]
  exact ⟨txEmit_of_not_enabled, txFinish_of_not_enabled, rxPop_of_not_ready, rxLinkErr_of_not_enabled⟩

/-- Settles O54: the step takes the oldest event, or the environment's; a message that decodes is its instruction. -/
theorem stepRunsDecodedInstruction : Obligations.StepRunsDecodedInstruction := by
  refine ⟨fun s f bytes rest i hin hdec _ => ?_, fun s e rest hin => step_of_inbox_cons hin,
    fun s hin => step_of_inbox_nil hin⟩
  calc step s = runEvent (.message f bytes) { s with inbox := rest } := step_of_inbox_cons hin
    _ = runMessage f bytes { s with inbox := rest } := runEvent_message f bytes _
    _ = exec i { s with inbox := rest } := runMessage_of_decode hdec _

end Sys2Proof.Machine
end

section
/-! Statements of spec/10_state.md: the reset values (R50), who writes `CRC` (R22), and the invariant of R51, which reset
establishes and every step keeps. -/

namespace Sys2Proof.Machine

@[simp] theorem runEvent_reset (s : State) : runEvent .reset s = .next (resetBlock s) := rfl

/-! ### Reset (R50, R300) -/

theorem atReset_resetBlock (s : State) : AtReset (resetBlock s) where
  crc := rfl
  txstate := rfl
  txframe := fun _ => rfl
  txtotal := rfl
  txpos := rfl
  utxsr := rfl
  utxn := rfl
  txd := rfl
  urxsr := rfl
  urxn := rfl
  rxfifo := rfl
  ferr := rfl
  ovr := rfl
  rxstate := rfl
  rxbuf := fun _ => rfl
  rxcnt := rfl
  rxlen := rfl
  rxtotal := rfl
  rxtimer := rfl
  rxerr := rfl
  crccalc := rfl
  crcrecv := rfl

theorem resetBlock_reset : resetBlock State.reset = State.reset := rfl

/-- Settles O53: the reset event's effect is `resetBlock`, and the state after reset is one more application of it. -/
theorem resetValues : Obligations.ResetValues :=
  ⟨fun s => ⟨resetBlock s, runEvent_reset s, atReset_resetBlock s⟩, resetBlock_reset ▸ atReset_resetBlock State.reset⟩

/-! ### What an operation of one path leaves unchanged

The transmit path, the receive path and the accumulator are disjoint (R227, R22): an operation on one of them changes nothing
that the clauses about the others mention. -/

/-- From `s` to `t` the receive path alone has changed, and the model's own fields. -/
structure ReceiveOnly (s t : State) : Prop where
  transmit : SameTransmit s t
  crc : t.crc = s.crc

/-- Writing fields of the receive path, or of the model's own, is such a change. -/
theorem receiveOnly_update {s : State} {urxsr : Byte} {urxn : BitVec 4} {rxfifo : List Byte} {ferr ovr : Bool}
    {rxstate : RxState} {rxbuf : Memory} {rxcnt : BitVec 9} {rxlen : Byte} {rxtotal : BitVec 9} {rxtimer : BitVec 7}
    {rxerr : Status} {crccalc crcrecv : Half} {answer : Answer} {tickDue : Bool} {inbox : List Event} {envPos : Nat} :
    ReceiveOnly s { s with urxsr, urxn, rxfifo, ferr, ovr, rxstate, rxbuf, rxcnt, rxlen, rxtotal, rxtimer, rxerr, crccalc,
                           crcrecv, answer, tickDue, inbox, envPos } :=
  ⟨⟨rfl, rfl, rfl, rfl, rfl, rfl, rfl⟩, rfl⟩

theorem ReceiveOnly.refl (s : State) : ReceiveOnly s s := receiveOnly_update

theorem ReceiveOnly.trans {s t u : State} (h : ReceiveOnly s t) (h' : ReceiveOnly t u) : ReceiveOnly s u where
  transmit := ⟨h'.transmit.txstate.trans h.transmit.txstate, h'.transmit.txframe.trans h.transmit.txframe,
    h'.transmit.txtotal.trans h.transmit.txtotal, h'.transmit.txpos.trans h.transmit.txpos,
    h'.transmit.utxsr.trans h.transmit.utxsr, h'.transmit.utxn.trans h.transmit.utxn,
    h'.transmit.txd.trans h.transmit.txd⟩
  crc := h'.crc.trans h.crc

theorem raise_receiveOnly (x : Status) (info : Option (Half × Half)) (s : State) : ReceiveOnly s (raise x info s) := by
  cases info <;> exact receiveOnly_update

theorem rxHeader_receiveOnly {s t : State} (h : rxHeader s = .next t) : ReceiveOnly s t := by
  obtain ⟨len, -, -, rfl⟩ | ⟨start, -, -, rfl⟩ := rxHeader_next s t h
  · exact receiveOnly_update
  · exact raise_receiveOnly _ _ s

theorem rxComplete_receiveOnly {s t : State} (h : rxComplete s = .next t) : ReceiveOnly s t := by
  obtain ⟨last, -, -, rfl⟩ | ⟨-, payload, received, -, -, ⟨-, rfl⟩ | ⟨-, rfl⟩⟩ := rxComplete_next s t h
  · exact raise_receiveOnly _ _ s
  · exact receiveOnly_update
  · exact raise_receiveOnly _ _ s

/-- The state after RX_POP has stored a byte at `RXCNT` and before it judges it (R176). -/
def storeByte (b : Byte) (s : State) : State :=
  { s with rxbuf := s.rxbuf.write s.rxcnt.toNat b, rxcnt := s.rxcnt + 1 }

theorem storeByte_receiveOnly (b : Byte) (s : State) : ReceiveOnly s (storeByte b s) :=
  receiveOnly_update

/-- `takeByte_next` with the stored state under its name. -/
theorem takeByte_outcomes {b : Byte} {s t : State} (h : takeByte b s = .next t) :
    s.rxcnt.toNat + 1 ≤ Config.frameMax ∧
    ((s.rxcnt + 1 = 2 ∧ rxHeader (storeByte b s) = .next t) ∨
      (3 ≤ s.rxcnt + 1 ∧ s.rxcnt + 1 = s.rxtotal ∧ rxComplete (storeByte b s) = .next t) ∨
      (s.rxcnt + 1 ≠ 2 ∧ ¬(3 ≤ s.rxcnt + 1 ∧ s.rxcnt + 1 = s.rxtotal) ∧ t = storeByte b s)) := by
  obtain ⟨hroom, hheader | ⟨-, hcomplete⟩ | hmiddle⟩ := takeByte_next b s t h
  · exact ⟨hroom, .inl hheader⟩
  · exact ⟨hroom, .inr (.inl hcomplete)⟩
  · exact ⟨hroom, .inr (.inr hmiddle)⟩

theorem takeByte_receiveOnly {b : Byte} {s t : State} (h : takeByte b s = .next t) : ReceiveOnly s t := by
  obtain ⟨-, ⟨-, hheader⟩ | ⟨-, -, hcomplete⟩ | ⟨-, -, rfl⟩⟩ := takeByte_outcomes h
  · exact (storeByte_receiveOnly b s).trans (rxHeader_receiveOnly hheader)
  · exact (storeByte_receiveOnly b s).trans (rxComplete_receiveOnly hcomplete)
  · exact storeByte_receiveOnly b s

theorem rxPop_receiveOnly {s t : State} (h : rxPop s = .next t) : ReceiveOnly s t := by
  obtain ⟨-, hpop⟩ | ⟨-, b, q, -, hpop⟩ := rxPop_cases s <;> rw [hpop] at h
  · cases h
    exact ReceiveOnly.refl s
  · have hdequeue : ReceiveOnly s { s with rxfifo := q } := receiveOnly_update
    exact hdequeue.trans (takeByte_receiveOnly h)

theorem urxBit_receiveOnly (x : Bool) (s : State) : ReceiveOnly s (urxBit x s) := by
  obtain ⟨-, -, h⟩ | ⟨-, -, h⟩ | ⟨-, -, h⟩ | ⟨-, -, h⟩ | ⟨-, -, -, h⟩ | ⟨-, -, -, h⟩ := urxBit_cases x s <;> rw [h] <;>
    exact receiveOnly_update

theorem urxSamples_receiveOnly (xs : List Bool) (s : State) : ReceiveOnly s (urxSamples xs s) :=
  urxSamples_keeps (ReceiveOnly s) (fun x u hu => hu.trans (urxBit_receiveOnly x u)) xs s (ReceiveOnly.refl s)

theorem deliver_receiveOnly {bs : List Byte} {s t : State} (h : deliver bs s = .next t) : ReceiveOnly s t :=
  deliver_keeps (ReceiveOnly s) (fun x u hu => hu.trans (urxBit_receiveOnly x u))
    (fun _ _ hu hpop => hu.trans (rxPop_receiveOnly hpop)) bs s t (ReceiveOnly.refl s) h

theorem rxLinkErr_receiveOnly {s t : State} (h : rxLinkErr s = .next t) : ReceiveOnly s t := by
  obtain ⟨-, herr⟩ | ⟨-, herr⟩ := rxLinkErr_cases s <;> rw [herr] at h <;> cases h
  · exact ReceiveOnly.refl s
  · exact raise_receiveOnly _ _ s

theorem countTick_receiveOnly (s : State) : ReceiveOnly s (countTick s) := by
  obtain ⟨-, h⟩ | ⟨-, -, h⟩ | ⟨-, -, h⟩ := countTick_cases s <;> rw [h] <;>
    exact receiveOnly_update

theorem rxTick_receiveOnly {s t : State} (h : rxTick s = .next t) : ReceiveOnly s t := by
  obtain ⟨-, htick⟩ | ⟨-, htick⟩ := rxTick_cases s <;> rw [htick] at h <;> cases h
  · exact ReceiveOnly.refl s
  · exact (countTick_receiveOnly s).trans receiveOnly_update

theorem reply_receiveOnly (a : Answer) (s : State) : ReceiveOnly s (reply a s) :=
  receiveOnly_update

theorem execRxStart_receiveOnly {s t : State} (h : execRxStart s = .next t) : ReceiveOnly s t := by
  obtain ⟨-, hstart⟩ | ⟨-, hstart⟩ := execRxStart_cases s <;> rw [hstart] at h <;> cases h
  · exact reply_receiveOnly _ s
  · exact receiveOnly_update

theorem execRxRead_receiveOnly {s t : State} (h : execRxRead s = .next t) : ReceiveOnly s t := by
  obtain ⟨r, rfl⟩ := execRxRead_next s t h
  exact reply_receiveOnly _ s

/-! ### Who writes `CRC` (R22, R141) -/

theorem sendFrame_crc {payload : List Byte} {s t : State} (h : sendFrame payload s = .next t) : t.crc = s.crc := by
  obtain ⟨-, hsend⟩ | ⟨-, -, hsend⟩ | ⟨-, -, hsend⟩ := sendFrame_cases payload s <;> rw [hsend] at h <;> cases h <;> rfl

theorem txEmit_crc {s t : State} (h : txEmit s = .next t) : t.crc = s.crc := by
  obtain ⟨-, hemit⟩ | ⟨-, b, -, hemit⟩ | ⟨-, -, hemit⟩ := txEmit_cases s <;> rw [hemit] at h <;> cases h <;> rfl

theorem txFinish_crc {s t : State} (h : txFinish s = .next t) : t.crc = s.crc := by
  obtain ⟨-, hfinish⟩ | ⟨-, hfinish⟩ := txFinish_cases s <;> rw [hfinish] at h <;> cases h <;> rfl

theorem utxBit_crc (s : State) : (utxBit s).crc = s.crc := by
  obtain ⟨-, hbit⟩ | ⟨-, hbit⟩ := utxBit_cases s <;> rw [hbit]

/-! The instructions made of a shared operation: `exec` is that operation (R152, R187, R241). -/

theorem exec_txFrame (payload : List Byte) (s : State) : exec (.txFrame payload) s = sendFrame payload s := rfl
theorem exec_cmdSetDuty (w : Word) (s : State) : exec (.cmdSetDuty w) s = sendFrame (setDutyPayload w) s := rfl
theorem exec_cmdSetCurrent (w : Word) (s : State) : exec (.cmdSetCurrent w) s = sendFrame (setCurrentPayload w) s := rfl
theorem exec_cmdSetBrakeCurrent (w : Word) (s : State) :
    exec (.cmdSetBrakeCurrent w) s = sendFrame (setBrakeCurrentPayload w) s := rfl
theorem exec_cmdSetRpm (w : Word) (s : State) : exec (.cmdSetRpm w) s = sendFrame (setRpmPayload w) s := rfl
theorem exec_cmdKeepalive (s : State) : exec .cmdKeepalive s = sendFrame keepalivePayload s := rfl
theorem exec_fwVersionRequest (s : State) : exec (.cmdFwVersion none) s = sendFrame (fwVersionPayload none) s := rfl
theorem exec_getValuesRequest (s : State) : exec (.cmdGetValues none) s = sendFrame (getValuesPayload none) s := rfl
theorem exec_fwVersionResponse (v : FwVersion) (s : State) :
    exec (.cmdFwVersion (some v)) s = deliver (encodeFrame (fwVersionPayload (some v))) s := rfl
theorem exec_getValuesResponse (v : Values) (s : State) :
    exec (.cmdGetValues (some v)) s = deliver (encodeFrame (getValuesPayload (some v))) s := rfl
theorem exec_frameShort (payload : List Byte) (crc : Half) (s : State) :
    exec (.frameShort payload crc) s = deliver (frameBytes payload crc) s := rfl
theorem exec_frameLong (len : Half) (rest : List Byte) (s : State) :
    exec (.frameLong len rest) s = deliver (Config.startLong :: (be16 len ++ rest)) s := rfl
theorem exec_uartChar (d : Byte) (s : State) :
    exec (.uartChar d) s = .next (urxSamples (charSamples (charWord d)) s) := rfl

/-- Every instruction but CRC_INIT and CRC_BYTE either answers only, or sends, or works on the receive path. -/
theorem exec_crc {i : Instr} {s t : State} (h : exec i s = .next t) (hinit : i ≠ .crcInit) (hbyte : ∀ b, i ≠ .crcByte b) :
    t.crc = s.crc := by
  cases i with
  | crcInit => exact absurd rfl hinit
  | crcByte b => exact absurd rfl (hbyte b)
  | statRead | crcRead | reserved7 | reserved8 | reserved9 | reservedA | reservedB | reservedC | reservedD | reservedE
  | reservedF => cases h; rfl
  | txFrame payload => rw [exec_txFrame] at h; exact sendFrame_crc h
  | cmdSetDuty w => rw [exec_cmdSetDuty] at h; exact sendFrame_crc h
  | cmdSetCurrent w => rw [exec_cmdSetCurrent] at h; exact sendFrame_crc h
  | cmdSetBrakeCurrent w => rw [exec_cmdSetBrakeCurrent] at h; exact sendFrame_crc h
  | cmdSetRpm w => rw [exec_cmdSetRpm] at h; exact sendFrame_crc h
  | cmdKeepalive => rw [exec_cmdKeepalive] at h; exact sendFrame_crc h
  | rxStart => exact (execRxStart_receiveOnly h).crc
  | rxRead => exact (execRxRead_receiveOnly h).crc
  | frameShort payload crc => rw [exec_frameShort] at h; exact (deliver_receiveOnly h).crc
  | frameLong len rest => rw [exec_frameLong] at h; exact (deliver_receiveOnly h).crc
  | uartChar d =>
    rw [exec_uartChar, Host.Outcome.next.injEq] at h
    exact h ▸ (urxSamples_receiveOnly _ s).crc
  | cmdFwVersion response =>
    cases response with
    | none => rw [exec_fwVersionRequest] at h; exact sendFrame_crc h
    | some v => rw [exec_fwVersionResponse] at h; exact (deliver_receiveOnly h).crc
  | cmdGetValues response =>
    cases response with
    | none => rw [exec_getValuesRequest] at h; exact sendFrame_crc h
    | some v => rw [exec_getValuesResponse] at h; exact (deliver_receiveOnly h).crc

theorem undecoded_crc {f : Format} {bytes : List Byte} {s t : State} (h : undecoded f bytes s = .next t) :
    t.crc = s.crc := by
  cases f with
  | hostOp => cases h
  | frame => exact (deliver_receiveOnly h).crc
  | payload => exact sendFrame_crc h
  | char =>
    simp only [undecoded] at h
    cases hw : charContainer bytes with
    | none => simp [hw] at h
    | some w =>
      simp only [hw, Host.Outcome.next.injEq] at h
      exact h ▸ (urxSamples_receiveOnly _ s).crc

theorem runMessage_crc {f : Format} {bytes : List Byte} {s t : State} (h : runMessage f bytes s = .next t)
    (hinit : decode f bytes ≠ .ok .crcInit) (hbyte : ∀ b, decode f bytes ≠ .ok (.crcByte b)) : t.crc = s.crc := by
  unfold runMessage at h
  cases hdec : decode f bytes with
  | error e => exact undecoded_crc (by simpa only [hdec] using h)
  | ok i =>
    have hexec : exec i s = .next t := by simpa only [hdec] using h
    exact exec_crc hexec (fun hi => hinit (hi ▸ hdec)) (fun b hi => hbyte b (hi ▸ hdec))

/-- Settles O7: the transmit steps are checked one by one, the receive steps change the receive path only. -/
theorem onlyCrcOperationsWriteCrc : Obligations.OnlyCrcOperationsWriteCrc := by
  intro e s t h hreset hmessage
  cases e with
  | message f bytes =>
    obtain ⟨hinit, hbyte⟩ := hmessage f bytes rfl
    exact runMessage_crc h hinit hbyte
  | txEmit => exact txEmit_crc h
  | txFinish => exact txFinish_crc h
  | utxBit => cases h; exact utxBit_crc s
  | urxBit x => cases h; exact (urxBit_receiveOnly x s).crc
  | rxPop => exact (rxPop_receiveOnly h).crc
  | rxLinkErr => exact (rxLinkErr_receiveOnly h).crc
  | tickDue => cases h; rfl
  | rxTick => exact (rxTick_receiveOnly h).crc
  | reset => exact absurd rfl hreset

/-! ### The invariant and its clauses: what each depends on -/

theorem TxInv.of_sameTransmit {s t : State} (h : TxInv s) (ht : SameTransmit s t) : TxInv t where
  pos_le := by rw [ht.txpos, ht.txtotal]; exact h.pos_le
  total_le := by rw [ht.txtotal]; exact h.total_le
  idle_quiet := by rw [ht.txstate, ht.utxn, ht.txtotal, ht.txpos]; exact h.idle_quiet
  sending_total := by rw [ht.txstate, ht.txtotal]; exact h.sending_total
  bits_le := by rw [ht.utxn]; exact h.bits_le
  frame_held := by rw [ht.txframe, ht.txtotal]; exact h.frame_held

theorem FrameInFlight.of_sameTransmit {s t : State} (h : FrameInFlight s) (ht : SameTransmit s t) : FrameInFlight t := by
  unfold FrameInFlight
  rw [ht.txstate, ht.txframe, ht.txtotal]
  exact h

/-- What the clauses about the deframer mention: the receive path without the serial receiver and its queue. -/
structure SameDeframer (s t : State) : Prop where
  result : SameResult s t
  rxcnt : t.rxcnt = s.rxcnt
  rxtotal : t.rxtotal = s.rxtotal
  rxtimer : t.rxtimer = s.rxtimer

/-- Writing fields of the serial receiver changes nothing the deframer's clauses mention. -/
theorem sameDeframer_update {s : State} {urxsr : Byte} {urxn : BitVec 4} {rxfifo : List Byte} {ferr ovr : Bool} :
    SameDeframer s { s with urxsr, urxn, rxfifo, ferr, ovr } :=
  ⟨⟨rfl, rfl, rfl, rfl, rfl, rfl⟩, rfl, rfl, rfl⟩

theorem SameReceive.sameDeframer {s t : State} (h : SameReceive s t) : SameDeframer s t :=
  ⟨h.result, h.rxcnt, h.rxtotal, h.rxtimer⟩

theorem SameDeframer.payloadSlice_eq {s t : State} (hd : SameDeframer s t) : payloadSlice t = payloadSlice s := by
  rw [payloadSlice, hd.result.rxbuf, hd.result.rxlen, payloadSlice]

theorem ReceivingInv.of_sameDeframer {s t : State} (h : ReceivingInv s) (hd : SameDeframer s t) : ReceivingInv t where
  timer_lt := by rw [hd.rxtimer]; exact h.timer_lt
  err_ok := by rw [hd.result.rxerr]; exact h.err_ok
  crcs_zero := by rw [hd.result.crccalc, hd.result.crcrecv]; exact h.crcs_zero
  header := by rw [hd.rxcnt, hd.rxtotal, hd.result.rxbuf, hd.result.rxlen]; exact h.header

theorem DoneOkInv.of_sameDeframer {s t : State} (h : DoneOkInv s) (hd : SameDeframer s t) : DoneOkInv t where
  count := by rw [hd.rxcnt, hd.rxtotal, hd.result.rxlen]; exact h.count
  start_mark := by rw [hd.result.rxbuf]; exact h.start_mark
  end_mark := by rw [hd.result.rxbuf, hd.rxtotal]; exact h.end_mark
  checksum := by rw [hd.payloadSlice_eq, hd.result.crccalc, hd.result.crcrecv]; exact h.checksum
  frame := by rw [hd.result.rxbuf, hd.result.rxlen]; exact h.frame

theorem DoneErrInv.of_sameDeframer {s t : State} (h : DoneErrInv s) (hd : SameDeframer s t) : DoneErrInv t where
  mismatch_differs := by rw [hd.result.rxerr, hd.result.crccalc, hd.result.crcrecv]; exact h.mismatch_differs
  others_zero := by rw [hd.result.rxerr, hd.result.crccalc, hd.result.crcrecv]; exact h.others_zero

/-- Bits and bytes may arrive as long as the receiver's own bounds stay: the other clauses do not look at them. -/
theorem RxInv.of_sameDeframer {s t : State} (h : RxInv s) (hd : SameDeframer s t) (hbits : t.urxn ≤ 9)
    (hfifo : t.rxfifo.length ≤ Config.rxFifoDepth) : RxInv t where
  count_le := by rw [hd.rxcnt]; exact h.count_le
  buf_held := by rw [hd.rxcnt, hd.result.rxbuf]; exact h.buf_held
  bits_le := hbits
  fifo_le := hfifo
  timer_le := by rw [hd.rxtimer]; exact h.timer_le
  receiving := by rw [hd.result.rxstate]; exact fun hs => (h.receiving hs).of_sameDeframer hd
  done_ok := by rw [hd.result.rxstate, hd.result.rxerr]; exact fun hs he => (h.done_ok hs he).of_sameDeframer hd
  done_err := by rw [hd.result.rxstate, hd.result.rxerr]; exact fun hs he => (h.done_err hs he).of_sameDeframer hd

/-- Writing fields of the transmit path, the accumulator, or the model's own, leaves the receive path the same. -/
theorem sameReceive_update {s : State} {crc : Half} {txstate : TxState} {txframe : Memory} {txtotal txpos : BitVec 9}
    {utxsr : BitVec 10} {utxn : BitVec 4} {txd : Bool} {answer : Answer} {tickDue : Bool} {inbox : List Event} {envPos : Nat} :
    SameReceive s { s with crc, txstate, txframe, txtotal, txpos, utxsr, utxn, txd, answer, tickDue, inbox, envPos } :=
  ⟨⟨rfl, rfl, rfl, rfl, rfl, rfl⟩, rfl, rfl, rfl, rfl, rfl, rfl, rfl, rfl⟩

theorem RxInv.of_sameReceive {s t : State} (h : RxInv s) (hr : SameReceive s t) : RxInv t :=
  h.of_sameDeframer hr.sameDeframer (by rw [hr.urxn]; exact h.bits_le) (by rw [hr.rxfifo]; exact h.fifo_le)

/-- A step that does not touch the transmit path has to keep the receiver's clauses only. -/
theorem Inv.of_sameTransmit {s t : State} (h : Inv s) (ht : SameTransmit s t) (hrx : RxInv t) : Inv t :=
  ⟨h.tx.of_sameTransmit ht, h.inFlight.of_sameTransmit ht, hrx⟩

/-- A step that does not touch the receive path has to keep the transmitter's clauses only. -/
theorem Inv.of_sameReceive {s t : State} (h : Inv s) (hr : SameReceive s t) (htx : TxInv t) (hflight : FrameInFlight t) :
    Inv t :=
  ⟨htx, hflight, h.rx.of_sameReceive hr⟩

/-- The accumulator and the model's own fields stand in no clause. -/
theorem inv_update {s : State} (h : Inv s) {crc : Half} {answer : Answer} {tickDue : Bool} {inbox : List Event} {envPos : Nat} :
    Inv { s with crc, answer, tickDue, inbox, envPos } :=
  h.of_sameTransmit ⟨rfl, rfl, rfl, rfl, rfl, rfl, rfl⟩ (h.rx.of_sameReceive sameReceive_update)

theorem inv_reply (a : Answer) {s : State} (h : Inv s) : Inv (reply a s) := inv_update h

/-! ### The clauses about the receiver, by `RXSTATE` -/

/-- The clauses of `RxInv` that hold whatever `RXSTATE` is. -/
structure RxBounds (s : State) : Prop where
  count_le : s.rxcnt.toNat ≤ Config.frameMax
  buf_held : HoldsExactly s.rxbuf s.rxcnt.toNat
  bits_le : s.urxn ≤ 9
  fifo_le : s.rxfifo.length ≤ Config.rxFifoDepth
  timer_le : s.rxtimer ≤ Config.rxTimeout

theorem RxInv.bounds {s : State} (h : RxInv s) : RxBounds s :=
  ⟨h.count_le, h.buf_held, h.bits_le, h.fifo_le, h.timer_le⟩

theorem RxBounds.rxInv_of_idle {s : State} (h : RxBounds s) (hs : s.rxstate = .idle) : RxInv s :=
  { h with
    receiving := by simp [hs]
    done_ok := by simp [hs]
    done_err := by simp [hs] }

theorem RxBounds.rxInv_of_receiving {s : State} (h : RxBounds s) (hs : s.rxstate = .receiving) (hr : ReceivingInv s) :
    RxInv s :=
  { h with
    receiving := fun _ => hr
    done_ok := by simp [hs]
    done_err := by simp [hs] }

theorem RxBounds.rxInv_of_done_ok {s : State} (h : RxBounds s) (hs : s.rxstate = .done) (he : s.rxerr = .ok)
    (hd : DoneOkInv s) : RxInv s :=
  { h with
    receiving := by simp [hs]
    done_ok := fun _ _ => hd
    done_err := by simp [he] }

theorem rxBounds_raise {s : State} (h : RxBounds s) (x : Status) (info : Option (Half × Half)) :
    RxBounds (raise x info s) := by
  cases info <;> exact { h with }

/-- An operation that ends with an error but ChecksumMismatch leaves the checksums at zero (R180, R268). -/
theorem RxBounds.rxInv_raise {s : State} (h : RxBounds s) {x : Status} (hok : x ≠ .ok) (hsum : x ≠ .checksumMismatch)
    (hzero : s.crccalc = 0 ∧ s.crcrecv = 0) : RxInv (raise x none s) :=
  { rxBounds_raise h x none with
    receiving := nofun
    done_ok := fun _ he => absurd he hok
    done_err := fun _ _ => ⟨fun he => absurd he hsum, fun _ => hzero⟩ }

/-- ChecksumMismatch is raised with two checksums that differ (R178). -/
theorem RxBounds.rxInv_raise_mismatch {s : State} (h : RxBounds s) {c r : Half} (hne : c ≠ r) :
    RxInv (raise .checksumMismatch (some (c, r)) s) :=
  { rxBounds_raise h .checksumMismatch (some (c, r)) with
    receiving := nofun
    done_ok := nofun
    done_err := fun _ _ => ⟨fun _ => hne, fun he => absurd rfl he⟩ }

/-! ### Reset and RX_START establish the invariant -/

theorem rxBounds_beginReceive {s : State} (h : RxInv s) : RxBounds (beginReceive s) :=
  ⟨Nat.zero_le _, rfl, h.bits_le, h.fifo_le, by simp [Config.rxTimeout]⟩

theorem rxInv_beginReceive {s : State} (h : RxInv s) : RxInv (beginReceive s) :=
  (rxBounds_beginReceive h).rxInv_of_receiving rfl
    ⟨by simp [Config.rxTimeout], rfl, ⟨rfl, rfl⟩, fun hcount => absurd hcount (by simp)⟩

theorem rxInv_reset : RxInv State.reset :=
  RxBounds.rxInv_of_idle ⟨Nat.zero_le _, rfl, by decide, Nat.zero_le _, by decide⟩ rfl

theorem txInv_reset : TxInv State.reset :=
  ⟨by decide, by decide, by decide, by decide, by decide, by decide⟩

/-- Settles O56: nothing is being sent, nothing is being received, and every count is zero. -/
theorem invariantAtReset : Obligations.InvariantAtReset :=
  ⟨txInv_reset, nofun, rxInv_reset⟩

theorem inv_resetBlock (s : State) : Inv (resetBlock s) :=
  inv_update (s := State.reset) invariantAtReset

/-! ### The framer and the transmitter keep the invariant -/

/-- A loaded frame meets the transmitter's clauses when the transmitter rests (R152). -/
theorem txInv_of_loaded {s : State} {payload : List Byte} (hlen : payload.length ≤ Config.maxPayload)
    (hstate : s.txstate = .sending) (hframe : s.txframe = Memory.holding (encodeFrame payload))
    (htotal : s.txtotal = frameTotal payload.length) (hpos : s.txpos = 0) (hbits : s.utxn = 0) : TxInv s := by
  have htotal_nat : s.txtotal.toNat = payload.length + 5 := by rw [htotal, frameTotal_toNat _ hlen]
  have hmax : payload.length ≤ 255 := hlen
  exact
    { pos_le := by rw [hpos]; bv_omega
      total_le := by rw [htotal_nat]; simp only [Config.frameMax]; omega
      idle_quiet := by simp [hstate]
      sending_total := fun _ => by bv_omega
      bits_le := by simp [hbits]
      frame_held := by rw [HoldsExactly, hframe, htotal_nat, Memory.holding_fst, encodeFrame_length] }

theorem inv_sendFrame {payload : List Byte} {s t : State} (hinv : Inv s) (h : sendFrame payload s = .next t) : Inv t := by
  obtain ⟨-, hsend⟩ | ⟨-, -, hsend⟩ | ⟨hlen, hidle, hsend⟩ := sendFrame_cases payload s <;> rw [hsend] at h <;> cases h
  · exact inv_reply _ hinv
  · exact inv_reply _ hinv
  · obtain ⟨hquiet, -⟩ := hinv.tx.idle_quiet hidle
    exact hinv.of_sameReceive sameReceive_update
      (txInv_of_loaded hlen rfl rfl rfl rfl hquiet) fun _ => ⟨payload, hlen, rfl, rfl⟩

theorem inv_txEmit {s t : State} (hinv : Inv s) (h : txEmit s = .next t) : Inv t := by
  obtain ⟨-, hemit⟩ | ⟨hen, b, -, hemit⟩ | ⟨-, -, hemit⟩ := txEmit_cases s <;> rw [hemit] at h <;> cases h
  · exact hinv
  · obtain ⟨hsending, hlt, -⟩ := (txEmitEnabled_iff s).1 hen
    have htx : TxInv { s with utxsr := charWord b, utxn := 10, txpos := s.txpos + 1 } :=
      { hinv.tx with
        pos_le := by bv_omega
        idle_quiet := by simp [hsending]
        bits_le := BitVec.le_refl _ }
    exact hinv.of_sameReceive sameReceive_update htx hinv.inFlight

theorem inv_txFinish {s t : State} (hinv : Inv s) (h : txFinish s = .next t) : Inv t := by
  obtain ⟨-, hfinish⟩ | ⟨hen, hfinish⟩ := txFinish_cases s <;> rw [hfinish] at h <;> cases h
  · exact hinv
  · obtain ⟨-, hend, hquiet⟩ := (txFinishEnabled_iff s).1 hen
    have htx : TxInv { s with txstate := .idle } :=
      { hinv.tx with
        idle_quiet := fun _ => ⟨hquiet, .inr hend⟩
        sending_total := nofun }
    exact hinv.of_sameReceive sameReceive_update htx nofun

theorem inv_utxBit {s : State} (hinv : Inv s) : Inv (utxBit s) := by
  have hle := hinv.tx.bits_le
  obtain ⟨-, hbit⟩ | ⟨hbusy, hbit⟩ := utxBit_cases s <;> rw [hbit]
  · exact hinv.of_sameReceive sameReceive_update { hinv.tx with }
      hinv.inFlight
  · have htx : TxInv { s with txd := s.utxsr.getLsbD 0, utxsr := (s.utxsr >>> 1) ||| 0x200, utxn := s.utxn - 1 } :=
      { hinv.tx with
        idle_quiet := fun hidle => absurd (hinv.tx.idle_quiet hidle).1 hbusy
        bits_le := by bv_omega }
    exact hinv.of_sameReceive sameReceive_update htx hinv.inFlight

/-! ### The serial receiver, the link error and the timebase keep the receiver's clauses -/

theorem rxInv_urxBit (x : Bool) {s : State} (h : RxInv s) : RxInv (urxBit x s) := by
  have hbits := h.bits_le
  obtain ⟨-, -, hbit⟩ | ⟨-, -, hbit⟩ | ⟨-, hle, hbit⟩ | ⟨-, -, hbit⟩ | ⟨-, -, hroom, hbit⟩ | ⟨-, -, -, hbit⟩ :=
    urxBit_cases x s <;> rw [hbit]
  · exact h
  · exact h.of_sameDeframer sameDeframer_update (by simp) h.fifo_le
  · exact h.of_sameDeframer sameDeframer_update (by bv_omega) h.fifo_le
  · exact h.of_sameDeframer sameDeframer_update (by simp) h.fifo_le
  · exact h.of_sameDeframer sameDeframer_update (by simp) (by simpa using hroom)
  · exact h.of_sameDeframer sameDeframer_update (by simp) h.fifo_le

theorem rxInv_rxLinkErr {s t : State} (hrx : RxInv s) (h : rxLinkErr s = .next t) : RxInv t := by
  obtain ⟨-, herr⟩ | ⟨hen, herr⟩ := rxLinkErr_cases s <;> rw [herr] at h <;> cases h
  · exact hrx
  · obtain ⟨hreceiving, -⟩ := (rxLinkErrEnabled_iff s).1 hen
    exact hrx.bounds.rxInv_raise nofun nofun (hrx.receiving hreceiving).crcs_zero

/-- A tick counted while receiving stays within the timeout budget (R180). -/
theorem rxBounds_tick {s : State} (h : RxBounds s) (hlt : s.rxtimer < Config.rxTimeout) :
    RxBounds { s with rxtimer := s.rxtimer + 1 } :=
  { h with timer_le := by simp only [Config.rxTimeout] at hlt ⊢; bv_omega }

theorem rxInv_countTick {s : State} (hrx : RxInv s) : RxInv (countTick s) := by
  obtain ⟨-, htick⟩ | ⟨hreceiving, -, htick⟩ | ⟨hreceiving, hbefore, htick⟩ := countTick_cases s <;> rw [htick]
  · exact hrx
  · have hr := hrx.receiving hreceiving
    exact (rxBounds_tick hrx.bounds hr.timer_lt).rxInv_raise nofun nofun hr.crcs_zero
  · have hr := hrx.receiving hreceiving
    have hbounds := rxBounds_tick hrx.bounds hr.timer_lt
    exact hbounds.rxInv_of_receiving hreceiving { hr with timer_lt := BitVec.lt_of_le_ne hbounds.timer_le hbefore }

theorem rxInv_rxTick {s t : State} (hrx : RxInv s) (h : rxTick s = .next t) : RxInv t := by
  obtain ⟨-, htick⟩ | ⟨-, htick⟩ := rxTick_cases s <;> rw [htick] at h <;> cases h
  · exact hrx
  · exact (rxInv_countTick hrx).of_sameReceive sameReceive_update

/-! ### A buffer that holds exactly `0` to `n - 1` is the byte sequence of its values (R67) -/

theorem Memory.eq_holding_of_holdsExactly (m : Memory) (n : Nat) (h : HoldsExactly m n) :
    m = Memory.holding (m.map Prod.snd) := by
  induction m using List.reverseRecOn generalizing n with
  | nil => rfl
  | append_singleton m c ih =>
    obtain ⟨k, v⟩ := c
    cases n with
    | zero => simp [HoldsExactly] at h
    | succ n =>
      rw [HoldsExactly, List.map_append, List.range_succ] at h
      obtain ⟨hm, hk⟩ := List.append_inj' h rfl
      have hk : k = n := by simpa using hk
      subst hk
      have hlen : m.length = k := by simpa using congrArg List.length hm
      have hlt : ∀ c ∈ m, c.1 < k := fun c hc => by
        have : c.1 ∈ List.range k := hm ▸ List.mem_map_of_mem hc
        simpa using this
      rw [List.map_append, List.map_singleton, Memory.holding_snoc, ← ih k hm, List.length_map, hlen,
        Memory.write_at_end m k v hlt]

theorem Memory.exists_holding_of_holdsExactly {m : Memory} {n : Nat} (h : HoldsExactly m n) :
    ∃ bs : List Byte, bs.length = n ∧ m = Memory.holding bs := by
  refine ⟨m.map Prod.snd, ?_, m.eq_holding_of_holdsExactly n h⟩
  simpa using congrArg List.length h

/-- A byte sequence with a short frame's start byte, length byte, checksum field and end marker in their places is the frame of
the payload between them (R92). -/
theorem eq_encodeFrame_of_fields {bs : List Byte} {len hi lo : Byte} (hlen : bs.length = len.toNat + 5)
    (hstart : bs[0]? = some Config.startShort) (hlenByte : bs[1]? = some len)
    (hhi : bs[len.toNat + 2]? = some hi) (hlo : bs[len.toNat + 3]? = some lo)
    (hend : bs[len.toNat + 4]? = some Config.endMark)
    (hcrc : crc16 ((bs.drop 2).take len.toNat) = halfOf hi lo) :
    bs = encodeFrame ((bs.drop 2).take len.toNat) := by
  obtain _ | ⟨b0, _ | ⟨b1, r⟩⟩ := bs
  · simp at hlen
  · simp at hlen
  · simp only [List.length_cons, List.getElem?_cons_zero, List.getElem?_cons_succ, Option.some.injEq,
      List.drop_succ_cons, List.drop_zero] at *
    obtain ⟨x, y, z, hrest⟩ : ∃ x y z, r.drop len.toNat = [x, y, z] := by
      rw [← List.length_eq_three, List.length_drop]
      omega
    have hfield (i : Nat) : [x, y, z][i]? = r[len.toNat + i]? := by rw [← hrest, List.getElem?_drop]
    have hx : x = hi := by simpa [hhi] using hfield 0
    have hy : y = lo := by simpa [hlo] using hfield 1
    have hz : z = Config.endMark := by simpa [hend] using hfield 2
    have htake : (r.take len.toNat).length = len.toNat := by
      rw [List.length_take]
      omega
    rw [encodeFrame, frameBytes, hcrc, be16_halfOf, htake, lenByte, BitVec.ofNat_toNat, BitVec.setWidth_eq, hstart, hlenByte,
      ← hx, ← hy, ← hz, List.append_assoc, List.cons_append, List.cons_append, List.nil_append, ← hrest,
      List.take_append_drop]

theorem receivedChecksum_ok {s : State} {c : Half} (h : receivedChecksum s = .ok c) :
    ∃ hi lo, s.rxbuf.read (s.rxlen.toNat + 2) = some hi ∧ s.rxbuf.read (s.rxlen.toNat + 3) = some lo ∧ c = halfOf hi lo := by
  unfold receivedChecksum at h
  obtain ⟨hi, hhi, hhi'⟩ | ⟨-, hhi'⟩ := readByte_cases s.rxbuf (s.rxlen.toNat + 2) <;> simp only [hhi'] at h
  · obtain ⟨lo, hlo, hlo'⟩ | ⟨-, hlo'⟩ := readByte_cases s.rxbuf (s.rxlen.toNat + 3) <;> simp only [hlo'] at h
    · exact ⟨hi, lo, hhi, hlo, by simpa using h.symm⟩
    · cases h
  · cases h

/-! ### RX_POP keeps the receiver's clauses -/

theorem storeByte_rxcnt_toNat (b : Byte) {s : State} (hroom : s.rxcnt.toNat + 1 ≤ Config.frameMax) :
    (storeByte b s).rxcnt.toNat = s.rxcnt.toNat + 1 := by
  have hroom : s.rxcnt.toNat + 1 ≤ 260 := hroom
  have hcount : (storeByte b s).rxcnt = s.rxcnt + 1 := rfl
  bv_omega

theorem rxBounds_storeByte (b : Byte) {s : State} (h : RxBounds s) (hroom : s.rxcnt.toNat + 1 ≤ Config.frameMax) :
    RxBounds (storeByte b s) :=
  { h with
    count_le := by rw [storeByte_rxcnt_toNat b hroom]; exact hroom
    buf_held := by
      rw [HoldsExactly, storeByte_rxcnt_toNat b hroom]
      exact Memory.write_fst_range s.rxbuf _ b h.buf_held }

/-- The header of the frame being received has been read (R177). -/
structure HeaderRead (s : State) : Prop where
  start_mark : Memory.read s.rxbuf 0 = some Config.startShort
  len_byte : Memory.read s.rxbuf 1 = some s.rxlen
  total : s.rxtotal = declaredTotal s.rxlen

/-- A byte stored at index 2 or above leaves the header as it was. -/
theorem headerRead_storeByte (b : Byte) {s : State} (h : HeaderRead s) (hcount : 2 ≤ s.rxcnt) :
    HeaderRead (storeByte b s) where
  start_mark := (Memory.read_write_ne s.rxbuf b (by bv_omega)).trans h.start_mark
  len_byte := (Memory.read_write_ne s.rxbuf b (by bv_omega)).trans h.len_byte
  total := h.total

theorem ReceivingInv.headerRead {s : State} (h : ReceivingInv s) (hcount : 2 ≤ s.rxcnt) : HeaderRead s := by
  obtain ⟨hstart, hlen, htotal, -⟩ := h.header hcount
  exact ⟨hstart, hlen, htotal⟩

/-- A third or later byte that is not the last leaves the operation in progress (R176). -/
theorem rxInv_storeByte {b : Byte} {s : State} (hrx : RxInv s) (hs : s.rxstate = .receiving)
    (hroom : s.rxcnt.toNat + 1 ≤ Config.frameMax) (hsecond : s.rxcnt + 1 ≠ 2)
    (hlast : ¬(3 ≤ s.rxcnt + 1 ∧ s.rxcnt + 1 = s.rxtotal)) : RxInv (storeByte b s) := by
  have hr := hrx.receiving hs
  have hroom' : s.rxcnt.toNat + 1 ≤ 260 := hroom
  refine (rxBounds_storeByte b hrx.bounds hroom).rxInv_of_receiving hs { hr with header := fun hcount => ?_ }
  have hcount : 2 ≤ s.rxcnt + 1 := hcount
  have hcount' : 2 ≤ s.rxcnt := by bv_omega
  obtain ⟨hstart, hlen, htotal⟩ := headerRead_storeByte b (hr.headerRead hcount') hcount'
  obtain ⟨-, -, -, hlt⟩ := hr.header hcount'
  exact ⟨hstart, hlen, htotal, show s.rxcnt + 1 < s.rxtotal by bv_omega⟩

/-- The second byte gives the length, or ends the operation with UnsupportedFrame (R177). -/
theorem rxInv_rxHeader {b : Byte} {s t : State} (hrx : RxInv s) (hs : s.rxstate = .receiving)
    (hroom : s.rxcnt.toNat + 1 ≤ Config.frameMax) (hsecond : s.rxcnt + 1 = 2)
    (h : rxHeader (storeByte b s) = .next t) : RxInv t := by
  have hr := hrx.receiving hs
  have hbounds := rxBounds_storeByte b hrx.bounds hroom
  obtain ⟨len, hstart, hlen, rfl⟩ | ⟨start, -, -, rfl⟩ := rxHeader_next _ _ h
  · have htotal := declaredTotal_toNat len
    have hlt : s.rxcnt + 1 < declaredTotal len := by bv_omega
    exact RxBounds.rxInv_of_receiving { hbounds with } hs { hr with header := fun _ => ⟨hstart, hlen, rfl, hlt⟩ }
  · exact hbounds.rxInv_raise nofun nofun hr.crcs_zero

/-- When all bytes of the declared total are there and the end mark and the checksum agree, the buffer holds the frame of its
payload slice (R51 (g), R178). -/
theorem exists_payload_of_complete {s : State} {payload : List Byte} {received : Half} (hbounds : RxBounds s)
    (hheader : HeaderRead s) (hcount : s.rxcnt = s.rxtotal)
    (hend : s.rxbuf.read (s.rxtotal.toNat - 1) = some Config.endMark) (hslice : payloadSlice s = .ok payload)
    (hreceived : receivedChecksum s = .ok received) (hsum : crc16 payload = received) :
    payload.length = s.rxlen.toNat ∧ s.rxbuf = Memory.holding (encodeFrame payload) := by
  have htotal : s.rxtotal.toNat = s.rxlen.toNat + 5 := by rw [hheader.total, declaredTotal_toNat]
  obtain ⟨bs, hlen, hbuf⟩ := Memory.exists_holding_of_holdsExactly hbounds.buf_held
  rw [hcount, htotal] at hlen
  have hread (i : Nat) : s.rxbuf.read i = bs[i]? := by rw [hbuf, Memory.read_holding]
  have hpayload : payload = (bs.drop 2).take s.rxlen.toNat := by
    rw [payloadSlice, hbuf, memRead_holding bs 2 _ (by omega)] at hslice
    cases hslice
    rfl
  obtain ⟨hi, lo, hhi, hlo, hfield⟩ := receivedChecksum_ok hreceived
  obtain ⟨hstart, hlenByte, -⟩ := hheader
  rw [htotal] at hend
  rw [hread] at hhi hlo hstart hlenByte hend
  constructor
  · rw [hpayload, List.length_take, List.length_drop]
    omega
  · rw [hbuf, hpayload, ← eq_encodeFrame_of_fields hlen hstart hlenByte hhi hlo hend (by rw [← hpayload, hsum, hfield])]

/-- The byte that completes the declared total ends the operation, with `OK` only for the frame of a payload (R178). -/
theorem rxInv_rxComplete {b : Byte} {s t : State} (hrx : RxInv s) (hs : s.rxstate = .receiving)
    (hroom : s.rxcnt.toNat + 1 ≤ Config.frameMax) (hthird : 3 ≤ s.rxcnt + 1) (hlast : s.rxcnt + 1 = s.rxtotal)
    (h : rxComplete (storeByte b s) = .next t) : RxInv t := by
  have hr := hrx.receiving hs
  have hbounds := rxBounds_storeByte b hrx.bounds hroom
  obtain ⟨last, -, -, rfl⟩ | ⟨hend, payload, received, hslice, hreceived, ⟨hsum, rfl⟩ | ⟨hsum, rfl⟩⟩ := rxComplete_next _ _ h
  · exact hbounds.rxInv_raise nofun nofun hr.crcs_zero
  · have hcount : 2 ≤ s.rxcnt := by bv_omega
    have hheader := headerRead_storeByte b (hr.headerRead hcount) hcount
    obtain ⟨hlen, hbuf⟩ := exists_payload_of_complete hbounds hheader hlast hend hslice hreceived hsum
    exact RxBounds.rxInv_of_done_ok { hbounds with } rfl rfl
      { count := ⟨hlast, hheader.total⟩
        start_mark := hheader.start_mark
        end_mark := hend
        checksum := ⟨payload, hslice, rfl, hsum.symm⟩
        frame := ⟨payload, hlen, hbuf⟩ }
  · exact hbounds.rxInv_raise_mismatch hsum

theorem rxInv_takeByte {b : Byte} {s t : State} (hrx : RxInv s) (hs : s.rxstate = .receiving)
    (h : takeByte b s = .next t) : RxInv t := by
  obtain ⟨hroom, ⟨hsecond, hheader⟩ | ⟨hthird, hlast, hcomplete⟩ | ⟨hsecond, hlast, rfl⟩⟩ := takeByte_outcomes h
  · exact rxInv_rxHeader hrx hs hroom hsecond hheader
  · exact rxInv_rxComplete hrx hs hroom hthird hlast hcomplete
  · exact rxInv_storeByte hrx hs hroom hsecond hlast

theorem rxInv_rxPop {s t : State} (hrx : RxInv s) (h : rxPop s = .next t) : RxInv t := by
  obtain ⟨-, hpop⟩ | ⟨hen, b, q, hq, hpop⟩ := rxPop_cases s <;> rw [hpop] at h
  · cases h
    exact hrx
  · obtain ⟨hs, -⟩ := (rxPopEnabled_iff s).1 hen
    have hfifo : q.length ≤ Config.rxFifoDepth := by
      have := hrx.fifo_le
      rw [hq, List.length_cons] at this
      omega
    have hdequeued : RxInv { s with rxfifo := q } :=
      hrx.of_sameDeframer sameDeframer_update hrx.bits_le hfifo
    exact rxInv_takeByte hdequeued hs h

/-! ### Every step keeps the invariant -/

theorem inv_urxBit (x : Bool) {s : State} (hinv : Inv s) : Inv (urxBit x s) :=
  hinv.of_sameTransmit (urxBit_receiveOnly x s).transmit (rxInv_urxBit x hinv.rx)

theorem inv_rxPop {s t : State} (hinv : Inv s) (h : rxPop s = .next t) : Inv t :=
  hinv.of_sameTransmit (rxPop_receiveOnly h).transmit (rxInv_rxPop hinv.rx h)

theorem inv_rxLinkErr {s t : State} (hinv : Inv s) (h : rxLinkErr s = .next t) : Inv t :=
  hinv.of_sameTransmit (rxLinkErr_receiveOnly h).transmit (rxInv_rxLinkErr hinv.rx h)

theorem inv_rxTick {s t : State} (hinv : Inv s) (h : rxTick s = .next t) : Inv t :=
  hinv.of_sameTransmit (rxTick_receiveOnly h).transmit (rxInv_rxTick hinv.rx h)

theorem inv_execRxStart {s t : State} (hinv : Inv s) (h : execRxStart s = .next t) : Inv t := by
  obtain ⟨-, hstart⟩ | ⟨-, hstart⟩ := execRxStart_cases s <;> rw [hstart] at h <;> cases h
  · exact inv_reply _ hinv
  · have hbegun : Inv (beginReceive s) :=
      hinv.of_sameTransmit ⟨rfl, rfl, rfl, rfl, rfl, rfl, rfl⟩ (rxInv_beginReceive hinv.rx)
    exact inv_reply _ hbegun

theorem inv_urxSamples (xs : List Bool) {s : State} (hinv : Inv s) : Inv (urxSamples xs s) :=
  urxSamples_keeps Inv (fun x _ => inv_urxBit x) xs s hinv

theorem inv_deliver {bs : List Byte} {s t : State} (hinv : Inv s) (h : deliver bs s = .next t) : Inv t :=
  deliver_keeps Inv (fun x _ => inv_urxBit x) (fun _ _ => inv_rxPop) bs s t hinv h

theorem inv_runMessage {f : Format} {bytes : List Byte} {s t : State} (hinv : Inv s) (h : runMessage f bytes s = .next t) :
    Inv t := by
  obtain ⟨a, hrun⟩ | hrun | ⟨b, hrun⟩ | ⟨payload, hrun⟩ | hrun | hrun | ⟨bs, hrun⟩ | ⟨xs, hrun⟩ | ⟨r, hrun⟩ :=
    runMessage_cases f bytes s <;> rw [hrun] at h
  · cases h; exact inv_reply a hinv
  · cases h; exact inv_update hinv
  · cases h; exact inv_update hinv
  · exact inv_sendFrame hinv h
  · exact inv_execRxStart hinv h
  · obtain ⟨r, rfl⟩ := execRxRead_next s t h
    exact inv_reply _ hinv
  · exact inv_deliver hinv h
  · cases h; exact inv_urxSamples xs hinv
  · cases h

theorem inv_runEvent {e : Event} {s t : State} (hinv : Inv s) (h : runEvent e s = .next t) : Inv t := by
  cases e with
  | message f bytes => exact inv_runMessage hinv h
  | txEmit => exact inv_txEmit hinv h
  | txFinish => exact inv_txFinish hinv h
  | utxBit => cases h; exact inv_utxBit hinv
  | urxBit x => cases h; exact inv_urxBit x hinv
  | rxPop => exact inv_rxPop hinv h
  | rxLinkErr => exact inv_rxLinkErr hinv h
  | tickDue =>
    cases h
    exact inv_update hinv
  | rxTick => exact inv_rxTick hinv h
  | reset => cases h; exact inv_resetBlock s

/-- Settles O57: fetching the event changes no element of the block, and every event keeps the invariant. -/
theorem stepKeepsInvariant : Obligations.StepKeepsInvariant := by
  intro s t hinv h
  cases hin : s.inbox with
  | nil =>
    have hfetched : Inv { s with envPos := s.envPos + 1 } := inv_update hinv
    exact inv_runEvent hfetched (step_of_inbox_nil hin ▸ h)
  | cons e rest =>
    have hfetched : Inv { s with inbox := rest } := inv_update hinv
    exact inv_runEvent hfetched (step_of_inbox_cons hin ▸ h)

end Sys2Proof.Machine
end

section
/-! Statements of spec/20_memory.md: under the invariant no access is out of range and none reads a byte that holds no value (R61,
R67), and a receive result stays until the next RX_START (R69 (c)). -/

namespace Sys2Proof.Machine

/-! ### Reads inside a buffer that holds exactly `0` to `n - 1` answer (R67) -/

theorem HoldsExactly.read_isSome {m : Memory} {n i : Nat} (h : HoldsExactly m n) (hi : i < n) : (m.read i).isSome :=
  m.read_isSome_of_mem i (h ▸ List.mem_range.2 hi)

theorem HoldsExactly.readByte_answers {m : Memory} {n i : Nat} (h : HoldsExactly m n) (hi : i < n) :
    ∃ b, readByte m i = .ok b := by
  obtain ⟨b, hb⟩ := Option.isSome_iff_exists.1 (h.read_isSome hi)
  exact ⟨b, (readByte_ok_iff m i b).2 hb⟩

theorem payloadSlice_answers {s : State} {n : Nat} (h : HoldsExactly s.rxbuf n) (hn : s.rxlen.toNat + 2 ≤ n) :
    ∃ payload, payloadSlice s = .ok payload := by
  obtain ⟨payload, hread, -⟩ := memRead_ok_of_values s.rxbuf 2 s.rxlen.toNat fun a _ ha => h.read_isSome (by omega)
  exact ⟨payload, hread⟩

theorem receivedChecksum_answers {s : State} {n : Nat} (h : HoldsExactly s.rxbuf n) (hn : s.rxlen.toNat + 4 ≤ n) :
    ∃ received, receivedChecksum s = .ok received := by
  obtain ⟨hi, hhi⟩ := h.readByte_answers (show s.rxlen.toNat + 2 < n by omega)
  obtain ⟨lo, hlo⟩ := h.readByte_answers (show s.rxlen.toNat + 3 < n by omega)
  exact ⟨halfOf hi lo, by simp only [receivedChecksum, hhi, hlo]⟩

/-! ### The framer answers -/

/-- TX_FRAME never reads, and what it stores fits (R61, R150). -/
theorem sendFrame_answers (payload : List Byte) (s : State) : ∃ t, sendFrame payload s = .next t := by
  obtain ⟨-, hsend⟩ | ⟨-, -, hsend⟩ | ⟨-, -, hsend⟩ := sendFrame_cases payload s <;> exact ⟨_, hsend⟩

/-- TX_EMIT reads at `TXPOS`, which is below `TXTOTAL` while it is enabled (R154). -/
theorem txEmit_answers {s : State} (htx : TxInv s) : ∃ t, txEmit s = .next t := by
  obtain ⟨-, hemit⟩ | ⟨-, b, -, hemit⟩ | ⟨hen, hnone, -⟩ := txEmit_cases s
  · exact ⟨s, hemit⟩
  · exact ⟨_, hemit⟩
  · obtain ⟨-, hlt, -⟩ := (txEmitEnabled_iff s).1 hen
    have hsome := htx.frame_held.read_isSome (show s.txpos.toNat < s.txtotal.toNat from hlt)
    simp [hnone] at hsome

theorem txFinish_answers (s : State) : ∃ t, txFinish s = .next t := by
  obtain ⟨-, hfinish⟩ | ⟨-, hfinish⟩ := txFinish_cases s <;> exact ⟨_, hfinish⟩

/-! ### The deframer answers -/

/-- The header step reads indices 0 and 1 (R177). -/
theorem rxHeader_answers {s : State} {n : Nat} (h : HoldsExactly s.rxbuf n) (hn : 2 ≤ n) : ∃ t, rxHeader s = .next t := by
  obtain ⟨start, hstart⟩ := h.readByte_answers (show 0 < n by omega)
  obtain ⟨len, hlen⟩ := h.readByte_answers (show 1 < n by omega)
  simp only [rxHeader, hstart, hlen, orFault]
  split <;> exact ⟨_, rfl⟩

/-- The completion step reads the payload slice, the checksum field and the last byte, all below the declared total (R178). -/
theorem rxComplete_answers {s : State} (h : HoldsExactly s.rxbuf s.rxtotal.toNat) (htotal : s.rxtotal = declaredTotal s.rxlen) :
    ∃ t, rxComplete s = .next t := by
  have hn : s.rxtotal.toNat = s.rxlen.toNat + 5 := by rw [htotal, declaredTotal_toNat]
  obtain ⟨last, hlast⟩ := h.readByte_answers (show s.rxtotal.toNat - 1 < s.rxtotal.toNat by omega)
  obtain ⟨payload, hslice⟩ := payloadSlice_answers h (by omega)
  obtain ⟨received, hreceived⟩ := receivedChecksum_answers h (by omega)
  simp only [rxComplete, hlast, hslice, hreceived, orFault]
  split
  · exact ⟨_, rfl⟩
  · split <;> exact ⟨_, rfl⟩

/-- While a receive operation is in progress there is room for one more byte: `RXCNT` is below the declared total, which is at
most 260 (R51 (f), R61). -/
theorem room_of_receiving {s : State} (h : ReceivingInv s) : s.rxcnt.toNat + 1 ≤ Config.frameMax := by
  simp only [Config.frameMax]
  by_cases hcount : 2 ≤ s.rxcnt
  · obtain ⟨-, -, htotal, hlt⟩ := h.header hcount
    have htotal_nat := declaredTotal_toNat s.rxlen
    rw [← htotal] at htotal_nat
    bv_omega
  · bv_omega

/-- With room for it the byte is stored, and judged by its position (R176). -/
theorem takeByte_of_room (b : Byte) {s : State} (hroom : s.rxcnt.toNat + 1 ≤ Config.frameMax) :
    takeByte b s =
      if s.rxcnt + 1 = 2 then rxHeader (storeByte b s)
      else if 3 ≤ s.rxcnt + 1 ∧ s.rxcnt + 1 = s.rxtotal then rxComplete (storeByte b s)
      else .next (storeByte b s) := by
  have hwrite : memWrite s.rxbuf s.rxcnt.toNat [b] = .ok (s.rxbuf.write s.rxcnt.toNat b) := if_pos hroom
  rw [takeByte, hwrite]
  rfl

theorem takeByte_answers (b : Byte) {s : State} (hrx : RxInv s) (hs : s.rxstate = .receiving) :
    ∃ t, takeByte b s = .next t := by
  have hr := hrx.receiving hs
  have hroom := room_of_receiving hr
  have hcount := storeByte_rxcnt_toNat b hroom
  have hheld := (rxBounds_storeByte b hrx.bounds hroom).buf_held
  rw [takeByte_of_room b hroom]
  split
  · exact rxHeader_answers hheld (by bv_omega)
  · split
    · rename_i hlast
      obtain ⟨hthird, htotal⟩ := hlast
      have hheader : 2 ≤ s.rxcnt := by bv_omega
      have hcountTotal : (storeByte b s).rxcnt = (storeByte b s).rxtotal := htotal
      exact rxComplete_answers (hcountTotal ▸ hheld) (headerRead_storeByte b (hr.headerRead hheader) hheader).total
    · exact ⟨_, rfl⟩

/-- A byte may leave the queue: the deframer's clauses do not look at it (R34). -/
theorem RxInv.dequeue {s : State} {b : Byte} {q : List Byte} (hrx : RxInv s) (hq : s.rxfifo = b :: q) :
    RxInv { s with rxfifo := q } := by
  have hfifo := hrx.fifo_le
  rw [hq, List.length_cons] at hfifo
  exact hrx.of_sameDeframer sameDeframer_update hrx.bits_le (Nat.le_of_succ_le hfifo)

theorem rxPop_answers {s : State} (hrx : RxInv s) : ∃ t, rxPop s = .next t := by
  obtain ⟨-, hpop⟩ | ⟨hen, b, q, hq, hpop⟩ := rxPop_cases s
  · exact ⟨s, hpop⟩
  · obtain ⟨hs, -⟩ := (rxPopEnabled_iff s).1 hen
    rw [hpop]
    exact takeByte_answers b (hrx.dequeue hq) hs

theorem deliver_answers_of_inv (bs : List Byte) {s : State} (hinv : Inv s) : ∃ t, deliver bs s = .next t := by
  have hpop : ∀ u, Inv u → ∃ t, rxPop u = .next t ∧ Inv t := fun u hu => by
    obtain ⟨t, ht⟩ := rxPop_answers hu.rx
    exact ⟨t, ht, inv_rxPop hu ht⟩
  obtain ⟨t, ht, -⟩ := deliver_answers Inv (fun x _ => inv_urxBit x) hpop bs s hinv
  exact ⟨t, ht⟩

theorem rxLinkErr_answers (s : State) : ∃ t, rxLinkErr s = .next t := by
  obtain ⟨-, herr⟩ | ⟨-, herr⟩ := rxLinkErr_cases s <;> exact ⟨_, herr⟩

theorem rxTick_answers (s : State) : ∃ t, rxTick s = .next t := by
  obtain ⟨-, htick⟩ | ⟨-, htick⟩ := rxTick_cases s <;> exact ⟨_, htick⟩

theorem execRxStart_answers (s : State) : ∃ t, execRxStart s = .next t := by
  obtain ⟨-, hstart⟩ | ⟨-, hstart⟩ := execRxStart_cases s <;> exact ⟨_, hstart⟩

/-- RX_READ reads the buffer only after an operation that ended with `OK`, and then the payload is there (R184, R51 (g)). -/
theorem execRxRead_answers {s : State} (hrx : RxInv s) : ∃ t, execRxRead s = .next t := by
  unfold execRxRead
  split
  · exact ⟨_, rfl⟩
  · split
    · rename_i hdone hok
      obtain ⟨payload, hslice, -⟩ := (hrx.done_ok (not_not.1 hdone) hok).checksum
      rw [hslice]
      exact ⟨_, rfl⟩
    · split <;> exact ⟨_, rfl⟩

/-! ### No step faults -/

/-- Under the invariant a message is executed to its end, or refused before it starts (log entry 7). -/
theorem runMessage_answers_or_refuses (f : Format) (bytes : List Byte) {s : State} (hinv : Inv s) :
    (∃ t, runMessage f bytes s = .next t) ∨ ∃ r, runMessage f bytes s = .refused r := by
  obtain ⟨a, hrun⟩ | hrun | ⟨b, hrun⟩ | ⟨payload, hrun⟩ | hrun | hrun | ⟨bs, hrun⟩ | ⟨xs, hrun⟩ | ⟨r, hrun⟩ :=
    runMessage_cases f bytes s <;> rw [hrun]
  · exact .inl ⟨_, rfl⟩
  · exact .inl ⟨_, rfl⟩
  · exact .inl ⟨_, rfl⟩
  · exact .inl (sendFrame_answers payload s)
  · exact .inl (execRxStart_answers s)
  · exact .inl (execRxRead_answers hinv.rx)
  · exact .inl (deliver_answers_of_inv bs hinv)
  · exact .inl ⟨_, rfl⟩
  · exact .inr ⟨r, rfl⟩

theorem runEvent_answers_or_refuses (e : Event) {s : State} (hinv : Inv s) :
    (∃ t, runEvent e s = .next t) ∨ ∃ r, runEvent e s = .refused r := by
  cases e with
  | message f bytes => exact runMessage_answers_or_refuses f bytes hinv
  | txEmit => exact .inl (txEmit_answers hinv.tx)
  | txFinish => exact .inl (txFinish_answers s)
  | rxPop => exact .inl (rxPop_answers hinv.rx)
  | rxLinkErr => exact .inl (rxLinkErr_answers s)
  | rxTick => exact .inl (rxTick_answers s)
  | utxBit | urxBit _ | tickDue | reset => exact .inl ⟨_, rfl⟩

theorem runEvent_ne_fault (e : Event) {s : State} (hinv : Inv s) (f : Fault) : runEvent e s ≠ .fault f := by
  obtain ⟨t, hrun⟩ | ⟨r, hrun⟩ := runEvent_answers_or_refuses e hinv <;> rw [hrun] <;> exact nofun

/-- Settles O58: fetching the event changes no element of the block, and no event faults under the invariant. -/
theorem invariantExcludesFaults : Obligations.InvariantExcludesFaults := by
  intro s hinv f
  cases hin : s.inbox with
  | nil =>
    have hfetched : Inv { s with envPos := s.envPos + 1 } := inv_update hinv
    rw [step_of_inbox_nil hin]
    exact runEvent_ne_fault _ hfetched f
  | cons e rest =>
    have hfetched : Inv { s with inbox := rest } := inv_update hinv
    rw [step_of_inbox_cons hin]
    exact runEvent_ne_fault e hfetched f

/-! ### The transmit path and the serial receiver leave the receive result alone -/

theorem SameResult.refl (s : State) : SameResult s s := ⟨rfl, rfl, rfl, rfl, rfl, rfl⟩

theorem SameResult.trans {s t u : State} (h : SameResult s t) (h' : SameResult t u) : SameResult s u :=
  ⟨h'.rxstate.trans h.rxstate, h'.rxerr.trans h.rxerr, h'.rxlen.trans h.rxlen, h'.rxbuf.trans h.rxbuf,
    h'.crccalc.trans h.crccalc, h'.crcrecv.trans h.crcrecv⟩

theorem sendFrame_sameReceive {payload : List Byte} {s t : State} (h : sendFrame payload s = .next t) : SameReceive s t := by
  obtain ⟨-, hsend⟩ | ⟨-, -, hsend⟩ | ⟨-, -, hsend⟩ := sendFrame_cases payload s <;> rw [hsend] at h <;> cases h <;>
    exact sameReceive_update

theorem txEmit_sameReceive {s t : State} (h : txEmit s = .next t) : SameReceive s t := by
  obtain ⟨-, hemit⟩ | ⟨-, b, -, hemit⟩ | ⟨-, -, hemit⟩ := txEmit_cases s <;> rw [hemit] at h <;> cases h <;>
    exact sameReceive_update

theorem txFinish_sameReceive {s t : State} (h : txFinish s = .next t) : SameReceive s t := by
  obtain ⟨-, hfinish⟩ | ⟨-, hfinish⟩ := txFinish_cases s <;> rw [hfinish] at h <;> cases h <;> exact sameReceive_update

theorem utxBit_sameReceive (s : State) : SameReceive s (utxBit s) := by
  obtain ⟨-, hbit⟩ | ⟨-, hbit⟩ := utxBit_cases s <;> rw [hbit] <;> exact sameReceive_update

theorem urxBit_sameDeframer (x : Bool) (s : State) : SameDeframer s (urxBit x s) := by
  obtain ⟨-, -, h⟩ | ⟨-, -, h⟩ | ⟨-, -, h⟩ | ⟨-, -, h⟩ | ⟨-, -, -, h⟩ | ⟨-, -, -, h⟩ := urxBit_cases x s <;> rw [h] <;>
    exact sameDeframer_update

theorem urxSamples_sameResult (xs : List Bool) (s : State) : SameResult s (urxSamples xs s) :=
  urxSamples_keeps (SameResult s) (fun x u hu => hu.trans (urxBit_sameDeframer x u).result) xs s (SameResult.refl s)

/-! ### In `RX_DONE` the deframer's steps are not taken, so bytes that arrive wait in the queue -/

theorem rxPop_of_done {s : State} (hs : s.rxstate = .done) : rxPop s = .next s :=
  rxPop_of_not_enabled fun hen => absurd ((rxPopEnabled_iff s).1 hen).1 (by simp [hs])

theorem rxLinkErr_of_done {s : State} (hs : s.rxstate = .done) : rxLinkErr s = .next s :=
  rxLinkErr_of_not_enabled fun hen => absurd ((rxLinkErrEnabled_iff s).1 hen).1 (by simp [hs])

theorem countTick_of_done {s : State} (hs : s.rxstate = .done) : countTick s = s := by
  obtain ⟨-, htick⟩ | ⟨hreceiving, -⟩ | ⟨hreceiving, -⟩ := countTick_cases s
  · exact htick
  · simp [hs] at hreceiving
  · simp [hs] at hreceiving

theorem rxTick_sameResult_of_done {s t : State} (hs : s.rxstate = .done) (h : rxTick s = .next t) : SameResult s t := by
  obtain ⟨-, htick⟩ | ⟨-, htick⟩ := rxTick_cases s <;> rw [htick] at h <;> cases h
  · exact SameResult.refl s
  · rw [countTick_of_done hs]
    exact sameReceive_update.result

theorem deliver_sameResult_of_done {bs : List Byte} {s t : State} (hs : s.rxstate = .done) (h : deliver bs s = .next t) :
    SameResult s t := by
  refine deliver_keeps (SameResult s) (fun x u hu => hu.trans (urxBit_sameDeframer x u).result) (fun u v hu hpop => ?_)
    bs s t (SameResult.refl s) h
  rw [rxPop_of_done (hu.rxstate.trans hs)] at hpop
  cases hpop
  exact hu

theorem execRxRead_sameResult {s t : State} (h : execRxRead s = .next t) : SameResult s t := by
  obtain ⟨r, rfl⟩ := execRxRead_next s t h
  exact sameReceive_update.result

/-! ### A result stays (R69 (c)) -/

/-- Every instruction but RX_START either answers only, or sends, or lets samples and bytes arrive. -/
theorem exec_sameResult_of_done {i : Instr} {s t : State} (hs : s.rxstate = .done) (h : exec i s = .next t)
    (hstart : i ≠ .rxStart) : SameResult s t := by
  cases i with
  | rxStart => exact absurd rfl hstart
  | statRead | crcInit | crcByte _ | crcRead | reserved7 | reserved8 | reserved9 | reservedA | reservedB | reservedC
  | reservedD | reservedE | reservedF => cases h; exact sameReceive_update.result
  | txFrame _ | cmdSetDuty _ | cmdSetCurrent _ | cmdSetBrakeCurrent _ | cmdSetRpm _ | cmdKeepalive =>
    simp only [exec_txFrame, exec_cmdSetDuty, exec_cmdSetCurrent, exec_cmdSetBrakeCurrent, exec_cmdSetRpm,
      exec_cmdKeepalive] at h
    exact (sendFrame_sameReceive h).result
  | rxRead => exact execRxRead_sameResult h
  | frameShort _ _ | frameLong _ _ =>
    simp only [exec_frameShort, exec_frameLong] at h
    exact deliver_sameResult_of_done hs h
  | uartChar _ =>
    rw [exec_uartChar, Host.Outcome.next.injEq] at h
    exact h ▸ urxSamples_sameResult _ s
  | cmdFwVersion response | cmdGetValues response =>
    cases response with
    | none =>
      simp only [exec_fwVersionRequest, exec_getValuesRequest] at h
      exact (sendFrame_sameReceive h).result
    | some _ =>
      simp only [exec_fwVersionResponse, exec_getValuesResponse] at h
      exact deliver_sameResult_of_done hs h

theorem undecoded_sameResult_of_done {f : Format} {bytes : List Byte} {s t : State} (hs : s.rxstate = .done)
    (h : undecoded f bytes s = .next t) : SameResult s t := by
  cases f with
  | hostOp => cases h
  | frame => exact deliver_sameResult_of_done hs h
  | payload => exact (sendFrame_sameReceive h).result
  | char =>
    simp only [undecoded] at h
    cases hw : charContainer bytes with
    | none => simp [hw] at h
    | some w =>
      simp only [hw, Host.Outcome.next.injEq] at h
      exact h ▸ urxSamples_sameResult _ s

theorem runMessage_sameResult_of_done {f : Format} {bytes : List Byte} {s t : State} (hs : s.rxstate = .done)
    (h : runMessage f bytes s = .next t) (hstart : decode f bytes ≠ .ok .rxStart) : SameResult s t := by
  cases hdec : decode f bytes with
  | error e => exact undecoded_sameResult_of_done hs (by simpa only [runMessage, hdec] using h)
  | ok i =>
    rw [runMessage_of_decode hdec] at h
    exact exec_sameResult_of_done hs h fun hi => hstart (hi ▸ hdec)

/-- Settles O44: what works on the transmit path or the serial receiver does not touch the result, and the deframer's steps are
not taken in `RX_DONE`. -/
theorem resultStaysUntilStart : Obligations.ResultStaysUntilStart := by
  intro e s t hs h hreset hmessage
  cases e with
  | message f bytes => exact runMessage_sameResult_of_done hs h (hmessage f bytes rfl)
  | txEmit => exact (txEmit_sameReceive h).result
  | txFinish => exact (txFinish_sameReceive h).result
  | utxBit => cases h; exact (utxBit_sameReceive s).result
  | urxBit x => cases h; exact (urxBit_sameDeframer x s).result
  | rxPop =>
    rw [runEvent_rxPop, rxPop_of_done hs] at h
    cases h
    exact SameResult.refl s
  | rxLinkErr =>
    rw [runEvent_rxLinkErr, rxLinkErr_of_done hs] at h
    cases h
    exact SameResult.refl s
  | tickDue => cases h; exact sameReceive_update.result
  | rxTick => exact rxTick_sameResult_of_done hs h
  | reset => exact absurd rfl hreset

end Sys2Proof.Machine
end

section
/-! Statements of spec/30_encoding.md: each encoding is a bijection between its well-formed instructions and the messages that
decode (R90 to R104), which messages are refused (R100, R101), a character on the line (R91, R214, R220), and the two frame
forms as they arrive (R92, R96). -/

namespace Sys2Proof.Machine

/-! ### Big-endian fields: taking one off the front is the inverse of writing it (R62, R242) -/

@[simp] theorem be32_wordOf (a b c d : Byte) : be32 (wordOf a b c d) = [a, b, c, d] := by
  have ha := a.isLt
  have hb := b.isLt
  have hc := c.isLt
  have hd := d.isLt
  have hbyte (k : Nat) : ((wordOf a b c d >>> k).setWidth 8).toNat =
      (a.toNat * 2 ^ 24 + b.toNat * 2 ^ 16 + c.toNat * 2 ^ 8 + d.toNat) / 2 ^ k % 2 ^ 8 := by
    rw [BitVec.toNat_setWidth, BitVec.toNat_ushiftRight, wordOf_toNat, Nat.shiftRight_eq_div_pow]
  simp only [be32, List.cons.injEq, and_true]
  refine ⟨?_, ?_, ?_, ?_⟩ <;> apply BitVec.eq_of_toNat_eq
  · rw [hbyte]; omega
  · rw [hbyte]; omega
  · rw [hbyte]; omega
  · rw [BitVec.toNat_setWidth, wordOf_toNat]; omega

theorem take8_eq_some_iff {s r : List Byte} {b : Byte} : take8 s = some (b, r) ↔ s = b :: r := by
  cases s with
  | nil => simp [take8]
  | cons c s => simp [take8]

theorem take16_eq_some_iff {s r : List Byte} {v : Half} : take16 s = some (v, r) ↔ s = be16 v ++ r := by
  refine ⟨fun h => ?_, fun h => h ▸ take16_be16 v r⟩
  match s with
  | [] | [_] => cases h
  | a :: b :: s =>
    cases h
    rw [be16_halfOf]
    rfl

theorem take32_eq_some_iff {s r : List Byte} {v : Word} : take32 s = some (v, r) ↔ s = be32 v ++ r := by
  refine ⟨fun h => ?_, fun h => h ▸ take32_be32 v r⟩
  match s with
  | [] | [_] | [_, _] | [_, _, _] => cases h
  | a :: b :: c :: d :: s =>
    cases h
    rw [be32_wordOf]
    rfl

/-! `valuesOf` reads field after field: how reading one goes on, forwards and backwards. -/

section
variable {α : Type} {a : α} {s : List Byte}

theorem bind_take8_cons (b : Byte) (r : List Byte) (f : Byte × List Byte → Option α) :
    (take8 (b :: r) >>= f) = f (b, r) := rfl

theorem bind_take16_be16 (v : Half) (r : List Byte) (f : Half × List Byte → Option α) :
    (take16 (be16 v ++ r) >>= f) = f (v, r) := by
  rw [take16_be16]
  rfl

theorem bind_take32_be32 (v : Word) (r : List Byte) (f : Word × List Byte → Option α) :
    (take32 (be32 v ++ r) >>= f) = f (v, r) := by
  rw [take32_be32]
  rfl

theorem of_bind_take8 {f : Byte × List Byte → Option α} {P : List Byte → Prop} (h : (take8 s >>= f) = some a)
    (hP : ∀ b r, f (b, r) = some a → P (b :: r)) : P s := by
  obtain ⟨⟨b, r⟩, htake, hrest⟩ := Option.bind_eq_some_iff.1 h
  exact take8_eq_some_iff.1 htake ▸ hP b r hrest

theorem of_bind_take16 {f : Half × List Byte → Option α} {P : List Byte → Prop} (h : (take16 s >>= f) = some a)
    (hP : ∀ v r, f (v, r) = some a → P (be16 v ++ r)) : P s := by
  obtain ⟨⟨v, r⟩, htake, hrest⟩ := Option.bind_eq_some_iff.1 h
  exact take16_eq_some_iff.1 htake ▸ hP v r hrest

theorem of_bind_take32 {f : Word × List Byte → Option α} {P : List Byte → Prop} (h : (take32 s >>= f) = some a)
    (hP : ∀ v r, f (v, r) = some a → P (be32 v ++ r)) : P s := by
  obtain ⟨⟨v, r⟩, htake, hrest⟩ := Option.bind_eq_some_iff.1 h
  exact take32_eq_some_iff.1 htake ▸ hP v r hrest

end

theorem valuesOf_valuesBytes (v : Values) : valuesOf (valuesBytes v) = some v := by
  simp only [valuesOf, valuesBytes, ↓bind_take16_be16, ↓bind_take32_be32, ↓bind_take8_cons, if_true]

theorem eq_valuesBytes_of_valuesOf {s : List Byte} {v : Values} (h : valuesOf s = some v) : s = valuesBytes v := by
  apply of_bind_take16 h; intro tempMosfet s h
  apply of_bind_take16 h; intro tempMotor s h
  apply of_bind_take32 h; intro avgMotorCurrent s h
  apply of_bind_take32 h; intro avgInputCurrent s h
  apply of_bind_take32 h; intro avgId s h
  apply of_bind_take32 h; intro avgIq s h
  apply of_bind_take16 h; intro dutyCycle s h
  apply of_bind_take32 h; intro rpm s h
  apply of_bind_take16 h; intro inputVoltage s h
  apply of_bind_take32 h; intro ampHours s h
  apply of_bind_take32 h; intro ampHoursCharged s h
  apply of_bind_take32 h; intro wattHours s h
  apply of_bind_take32 h; intro wattHoursCharged s h
  apply of_bind_take32 h; intro tachometer s h
  apply of_bind_take32 h; intro tachometerAbs s h
  apply of_bind_take8 h; intro fault s h
  apply of_bind_take32 h; intro pidPos s h
  apply of_bind_take8 h; intro controllerId s h
  obtain ⟨rfl, hv⟩ := Option.ite_none_right_eq_some.1 h
  cases hv
  rfl

/-! ### What a decoded message is: the encoding of a well-formed instruction in its format -/

/-- `bytes` encode the well-formed instruction `i` in the format `f`. -/
structure Encodes (i : Instr) (f : Format) (bytes : List Byte) : Prop where
  format : formatOf i = f
  encoding : encode i = bytes
  wellFormed : WellFormed i = true

/-! ### HOSTOP4 (R100) -/

theorem noOperand_eq_ok_iff {i j : Instr} {operands : List Byte} :
    noOperand i operands = .ok j ↔ operands = [] ∧ j = i := by
  unfold noOperand
  split
  · simp [*, eq_comm]
  · simp [*]

theorem oneByte_eq_ok_iff {i : Instr} {operands : List Byte} :
    oneByte operands = .ok i ↔ ∃ b, operands = [b] ∧ i = .crcByte b := by
  match operands with
  | [] => simp [oneByte]
  | [b] => simp [oneByte, eq_comm]
  | _ :: _ :: _ => simp [oneByte]

theorem decodeHostOp_encode {i : Instr} (h : formatOf i = .hostOp) : decodeHostOp (encode i) = .ok i := by
  cases i with
  | frameShort | frameLong | uartChar | cmdFwVersion | cmdGetValues | cmdSetDuty | cmdSetCurrent | cmdSetBrakeCurrent
  | cmdSetRpm | cmdKeepalive => cases h
  | _ => rfl

theorem encodes_of_noOperand {i j : Instr} {code : Byte} {operands : List Byte} {k : Nat}
    (h : noOperand i operands = .ok j) (hcode : code.toNat = k) (hi : Encodes i .hostOp [BitVec.ofNat 8 k]) :
    Encodes j .hostOp (code :: operands) := by
  obtain ⟨rfl, rfl⟩ := noOperand_eq_ok_iff.1 h
  rwa [← hcode, BitVec.ofNat_toNat, BitVec.setWidth_eq] at hi

theorem encodes_of_decodeHostOp {s : List Byte} {i : Instr} (h : decodeHostOp s = .ok i) : Encodes i .hostOp s := by
  cases s with
  | nil => cases h
  | cons code operands =>
    simp only [decodeHostOp] at h
    split at h
    case h_3 hcode =>
      obtain rfl : code = 0x2 := BitVec.eq_of_toNat_eq hcode
      obtain ⟨b, rfl, rfl⟩ := oneByte_eq_ok_iff.1 h
      exact ⟨rfl, rfl, rfl⟩
    case h_5 hcode =>
      obtain rfl : code = 0x4 := BitVec.eq_of_toNat_eq hcode
      cases h
      exact ⟨rfl, rfl, rfl⟩
    case h_17 => cases h
    all_goals exact encodes_of_noOperand h ‹_› ⟨rfl, rfl, rfl⟩

/-! ### FRAME_BYTE0 (R92, R96) -/

theorem frameBytes_getD_len (payload : List Byte) (crc : Half) :
    (frameBytes payload crc).getD 1 0 = lenByte payload.length := rfl

theorem frameBytes_drop (payload : List Byte) (crc : Half) :
    (frameBytes payload crc).drop 2 = payload ++ [hiByte crc, loByte crc, Config.endMark] := by
  simp [frameBytes, be16]

theorem frameBytes_getElem (payload : List Byte) (crc : Half) (k : Nat) :
    (frameBytes payload crc)[payload.length + 2 + k]? = [hiByte crc, loByte crc, Config.endMark][k]? := by
  rw [show payload.length + 2 + k = 2 + (payload.length + k) by omega, ← List.getElem?_drop, frameBytes_drop,
    List.getElem?_append_right (by omega), Nat.add_sub_cancel_left]

/-- A frame whose length byte and end mark are in place is judged by its checksum field alone (R170). -/
theorem checkFrame_frameBytes {payload : List Byte} (crc : Half) (hlen : payload.length ≤ Config.maxPayload) :
    checkFrame (frameBytes payload crc) =
      if crc16 payload = crc then .ok payload else .checksumMismatch (crc16 payload) crc := by
  have hfield (k : Nat) : (frameBytes payload crc).getD (payload.length + 2 + k) 0 =
      [hiByte crc, loByte crc, Config.endMark].getD k 0 := by
    rw [List.getD_eq_getElem?_getD, frameBytes_getElem, List.getD_eq_getElem?_getD]
  have hhi := hfield 0
  have hlo := hfield 1
  have hend := hfield 2
  simp only [Nat.add_zero, Nat.add_assoc, Nat.reduceAdd, List.getD_cons_zero, List.getD_cons_succ] at hhi hlo hend
  simp only [checkFrame, frameBytes_getD_len, lenByte_toNat _ hlen, frameBytes_drop, hhi, hlo, hend, List.take_left,
    halfOf_bytes, ne_eq, not_true, if_false, ite_not]

theorem decodeStream_cons_cons (start len : Byte) (r : List Byte) :
    decodeStream (start :: len :: r) =
      if start ≠ Config.startShort then (.unsupportedFrame, 2)
      else if (start :: len :: r).length < len.toNat + 5 then (.timeout, (start :: len :: r).length)
      else (checkFrame ((start :: len :: r).take (len.toNat + 5)), len.toNat + 5) := rfl

/-- `decode` consumes a whole short frame whose length byte is right, whatever follows (R171). -/
theorem decodeStream_frameBytes_append {payload : List Byte} (crc : Half) (rest : List Byte)
    (hlen : payload.length ≤ Config.maxPayload) :
    decodeStream (frameBytes payload crc ++ rest) =
      (if crc16 payload = crc then .ok payload else .checksumMismatch (crc16 payload) crc, payload.length + 5) := by
  have hlength := frameBytes_length payload crc
  have htake : (frameBytes payload crc ++ rest).take (payload.length + 5) = frameBytes payload crc := by
    rw [← hlength, List.take_left]
  have hlong : ¬(frameBytes payload crc ++ rest).length < payload.length + 5 := by
    rw [List.length_append, hlength]
    omega
  have hcons : frameBytes payload crc ++ rest =
      Config.startShort :: lenByte payload.length :: ((payload ++ be16 crc ++ [Config.endMark]) ++ rest) := rfl
  rw [hcons, decodeStream_cons_cons, ← hcons, if_neg (not_not.2 rfl), lenByte_toNat _ hlen, if_neg hlong, htake,
    checkFrame_frameBytes crc hlen]

/-- The only frames that `check_frame` accepts are those of R92 (R170). -/
theorem eq_encodeFrame_of_checkFrame {f payload : List Byte} {len : Byte} (hlength : f.length = len.toNat + 5)
    (hstart : f[0]? = some Config.startShort) (hlen : f[1]? = some len) (h : checkFrame f = .ok payload) :
    payload.length = len.toNat ∧ f = encodeFrame payload := by
  have hget {k : Nat} (hk : k < len.toNat + 5) : f[k]? = some (f.getD k 0) := by
    rw [← hlength] at hk
    rw [List.getElem?_eq_getElem hk, List.getD_eq_getElem _ _ hk]
  have hlenByte : f.getD 1 0 = len := by rw [List.getD_eq_getElem?_getD, hlen, Option.getD_some]
  simp only [checkFrame, hlenByte] at h
  split at h
  · cases h
  · rename_i hend
    split at h
    · cases h
    · rename_i hsum
      cases h
      refine ⟨?_, eq_encodeFrame_of_fields hlength hstart hlen (hget (by omega)) (hget (by omega)) ?_ (not_not.1 hsum)⟩
      · rw [List.length_take, List.length_drop]
        omega
      · rw [hget (by omega), not_not.1 hend]

/-- The only byte sequences that `decode` accepts begin with the frame of the payload it returns (R171). -/
theorem take_eq_encodeFrame_of_decodeStream {s payload : List Byte} {n : Nat} (h : decodeStream s = (.ok payload, n)) :
    payload.length ≤ Config.maxPayload ∧ n = payload.length + 5 ∧ s.take n = encodeFrame payload := by
  match s with
  | [] | [_] => cases h
  | start :: len :: r =>
    rw [decodeStream_cons_cons] at h
    split at h
    · cases h
    · rename_i hstart
      split at h
      · cases h
      · rename_i hlong
        obtain ⟨hcheck, rfl⟩ := Prod.mk.inj h
        have hlength : ((start :: len :: r).take (len.toNat + 5)).length = len.toNat + 5 := by
          rw [List.length_take]
          omega
        obtain ⟨hpayload, hframe⟩ :=
          eq_encodeFrame_of_checkFrame hlength (by rw [not_not.1 hstart]; rfl) rfl hcheck
        have hmax : payload.length ≤ 255 := by have := len.isLt; omega
        exact ⟨hmax, by rw [hpayload], hframe⟩

theorem decodeFrame_startShort (r : List Byte) :
    decodeFrame (Config.startShort :: r) = decodeShort (Config.startShort :: r) := rfl

theorem decodeFrame_startLong (r : List Byte) :
    decodeFrame (Config.startLong :: r) = decodeLong (Config.startLong :: r) := rfl

theorem decodeFrame_frameShort {payload : List Byte} {crc : Half} (hlen : PayloadFits payload)
    (hcrc : ChecksumHolds payload crc) : decodeFrame (frameBytes payload crc) = .ok (.frameShort payload crc) := by
  subst hcrc
  have hstream := decodeStream_frameBytes_append (crc16 payload) [] hlen
  rw [List.append_nil, if_pos rfl] at hstream
  have hshort : decodeFrame (frameBytes payload (crc16 payload)) = decodeShort (frameBytes payload (crc16 payload)) :=
    decodeFrame_startShort _
  rw [hshort, decodeShort, hstream, frameBytes_length]
  exact if_pos rfl

theorem decodeFrame_frameLong (len : Half) (rest : List Byte) :
    decodeFrame (Config.startLong :: (be16 len ++ rest)) = .ok (.frameLong len rest) :=
  calc decodeFrame (Config.startLong :: (be16 len ++ rest))
      = decodeLong (Config.startLong :: (be16 len ++ rest)) := decodeFrame_startLong _
    _ = .ok (.frameLong (halfOf (hiByte len) (loByte len)) rest) := rfl
    _ = .ok (.frameLong len rest) := by rw [halfOf_bytes]

theorem encodes_of_decodeShort {s : List Byte} {i : Instr} (h : decodeShort s = .ok i) : Encodes i .frame s := by
  unfold decodeShort at h
  split at h
  case h_1 payload n hstream =>
    obtain ⟨hlen, -, htake⟩ := take_eq_encodeFrame_of_decodeStream hstream
    split at h
    · rename_i hwhole
      cases h
      rw [hwhole, List.take_length] at htake
      exact ⟨rfl, htake.symm, decide_eq_true ⟨hlen, rfl⟩⟩
    · cases h
  all_goals cases h

theorem encodes_of_decodeLong {r : List Byte} {i : Instr} (h : decodeLong (Config.startLong :: r) = .ok i) :
    Encodes i .frame (Config.startLong :: r) := by
  match r with
  | [] | [_] => cases h
  | hi :: lo :: rest =>
    cases h
    refine ⟨rfl, ?_, rfl⟩
    rw [encode, be16_halfOf]
    rfl

theorem encodes_of_decodeFrame {s : List Byte} {i : Instr} (h : decodeFrame s = .ok i) : Encodes i .frame s := by
  cases s with
  | nil => cases h
  | cons start r =>
    simp only [decodeFrame] at h
    split at h
    · exact encodes_of_decodeShort h
    · split at h
      · rename_i hstart
        subst hstart
        exact encodes_of_decodeLong h
      · cases h

/-! ### CHAR10 (R91) -/

theorem charWord_getLsbD_zero (b : Byte) : (charWord b).getLsbD 0 = false := by
  simp [charWord]

theorem charWord_getLsbD_nine (b : Byte) : (charWord b).getLsbD 9 = true := by
  simp [charWord]

/-- Data bits follow the start bit, least significant first (R91). -/
theorem charWord_getLsbD_succ (b : Byte) {k : Nat} (hk : k < 8) : (charWord b).getLsbD (k + 1) = b.getLsbD k := by
  have hstop : ((0x200 : Nat) : BitVec 10).getLsbD (k + 1) = false := by
    interval_cases k <;> rfl
  rw [charWord, BitVec.getLsbD_or, hstop, Bool.false_or, BitVec.getLsbD_shiftLeft, BitVec.getLsbD_setWidth]
  simp [show k + 1 < 10 by omega, show k < 10 by omega]

theorem charData_getLsbD (w : BitVec 10) {k : Nat} (hk : k < 8) : (charData w).getLsbD k = w.getLsbD (k + 1) := by
  simp [charData, hk, Nat.add_comm]

theorem charData_charWord (b : Byte) : charData (charWord b) = b :=
  BitVec.eq_of_getLsbD_eq fun k hk => by rw [charData_getLsbD _ hk, charWord_getLsbD_succ b hk]

/-- A character is its data between start bit 0 and stop bit 1 (R91). -/
theorem charWord_charData {w : BitVec 10} (hstart : w.getLsbD 0 = false) (hstop : w.getLsbD 9 = true) :
    charWord (charData w) = w := by
  refine BitVec.eq_of_getLsbD_eq fun k hk => ?_
  obtain rfl | rfl | ⟨j, rfl, hj⟩ : k = 0 ∨ k = 9 ∨ ∃ j, k = j + 1 ∧ j < 8 := by
    cases k with
    | zero => exact .inl rfl
    | succ j => by_cases hj : j < 8
                · exact .inr (.inr ⟨j, rfl, hj⟩)
                · exact .inr (.inl (by omega))
  · rw [charWord_getLsbD_zero, hstart]
  · rw [charWord_getLsbD_nine, hstop]
  · rw [charWord_getLsbD_succ _ hj, charData_getLsbD _ hj]

/-- A two-byte container is the ten bits it holds, low byte first (log entry 29). -/
theorem charContainer_charBytes (w : BitVec 10) : charContainer (charBytes w) = some w := by
  have hw := w.isLt
  have hhi : ((w >>> 8).setWidth 8).toNat = w.toNat / 2 ^ 8 := by
    rw [BitVec.toNat_setWidth, BitVec.toNat_ushiftRight, Nat.shiftRight_eq_div_pow]
    omega
  refine (if_pos (by omega)).trans (congrArg some (BitVec.eq_of_toNat_eq ?_))
  rw [BitVec.toNat_setWidth, halfOf_toNat, hhi, BitVec.toNat_setWidth]
  omega

theorem eq_charBytes_of_charContainer {s : List Byte} {w : BitVec 10} (h : charContainer s = some w) : s = charBytes w := by
  match s with
  | [] | [_] | _ :: _ :: _ :: _ => cases h
  | [lo, hi] =>
    have hlo := lo.isLt
    obtain ⟨hhi, hw⟩ := Option.ite_none_right_eq_some.1 h
    obtain rfl := Option.some.inj hw
    have hten : ((halfOf hi lo).setWidth 10).toNat = hi.toNat * 2 ^ 8 + lo.toNat := by
      rw [BitVec.toNat_setWidth, halfOf_toNat]
      omega
    simp only [charBytes, List.cons.injEq, and_true]
    constructor <;> apply BitVec.eq_of_toNat_eq
    · rw [BitVec.toNat_setWidth, hten]
      omega
    · rw [BitVec.toNat_setWidth, BitVec.toNat_ushiftRight, hten, Nat.shiftRight_eq_div_pow]
      omega

theorem decodeChar_charBytes {w : BitVec 10} (hstart : w.getLsbD 0 = false) (hstop : w.getLsbD 9 = true) :
    decodeChar (charBytes w) = .ok (.uartChar (charData w)) := by
  simp only [decodeChar, charContainer_charBytes, hstart, hstop, Bool.false_eq_true, if_false, if_true]

theorem encodes_of_decodeChar {s : List Byte} {i : Instr} (h : decodeChar s = .ok i) : Encodes i .char s := by
  unfold decodeChar at h
  split at h
  · cases h
  · rename_i w hw
    split at h
    · cases h
    · rename_i hstart
      split at h
      · rename_i hstop
        cases h
        refine ⟨rfl, ?_, rfl⟩
        rw [encode, charWord_charData (by simpa using hstart) hstop, eq_charBytes_of_charContainer hw]
      · cases h

/-! ### PAYLOAD_BYTE0 (R104, R240) -/

theorem oneWord_eq_some_iff {c : Word → Instr} {s : List Byte} {i : Instr} :
    oneWord c s = some i ↔ ∃ w, s = be32 w ∧ i = c w := by
  constructor
  · intro h
    unfold oneWord at h
    split at h
    · cases h
      exact ⟨_, (be32_wordOf _ _ _ _).symm, rfl⟩
    · cases h
  · rintro ⟨w, rfl, rfl⟩
    exact congrArg (some ∘ c) (wordOf_be32 w)

theorem parseFwVersion_eq_some_iff {s : List Byte} {i : Instr} :
    parseFwVersion s = some i ↔ ∃ response, fwVersionPayload response = 0x00 :: s ∧ i = .cmdFwVersion response := by
  constructor
  · intro h
    unfold parseFwVersion at h
    split at h
    · cases h
      exact ⟨none, rfl, rfl⟩
    · cases h
      exact ⟨some _, rfl, rfl⟩
    · cases h
  · rintro ⟨_ | v, hs, rfl⟩ <;> cases hs <;> rfl

theorem parseGetValues_eq_some_iff {s : List Byte} {i : Instr} :
    parseGetValues s = some i ↔ ∃ response, getValuesPayload response = 0x04 :: s ∧ i = .cmdGetValues response := by
  constructor
  · intro h
    unfold parseGetValues at h
    split at h
    · cases h
      exact ⟨none, rfl, rfl⟩
    · obtain ⟨v, hv, rfl⟩ := Option.map_eq_some_iff.1 h
      exact ⟨some v, by rw [eq_valuesBytes_of_valuesOf hv]; rfl, rfl⟩
  · rintro ⟨_ | v, hs, rfl⟩ <;> cases hs
    · rfl
    · exact congrArg (Option.map fun v => Instr.cmdGetValues (some v)) (valuesOf_valuesBytes v)

theorem parsePayload_encode {i : Instr} (h : formatOf i = .payload) : parsePayload (encode i) = some i := by
  cases i with
  | cmdFwVersion response => cases response <;> rfl
  | cmdGetValues response =>
    cases response with
    | none => rfl
    | some v => exact parseGetValues_eq_some_iff.2 ⟨some v, rfl, rfl⟩
  | cmdSetDuty w | cmdSetCurrent w | cmdSetBrakeCurrent w | cmdSetRpm w => exact oneWord_eq_some_iff.2 ⟨w, rfl, rfl⟩
  | cmdKeepalive => rfl
  | _ => cases h

theorem encodes_of_oneWord {c : Word → Instr} {i : Instr} {id : Byte} {s : List Byte} {k : Nat} (h : oneWord c s = some i)
    (hid : id.toNat = k) (hc : ∀ w, Encodes (c w) .payload (BitVec.ofNat 8 k :: be32 w)) :
    Encodes i .payload (id :: s) := by
  obtain ⟨w, rfl, rfl⟩ := oneWord_eq_some_iff.1 h
  have hw := hc w
  rwa [← hid, BitVec.ofNat_toNat, BitVec.setWidth_eq] at hw

theorem encodes_of_parsePayload {s : List Byte} {i : Instr} (h : parsePayload s = some i) : Encodes i .payload s := by
  cases s with
  | nil => cases h
  | cons id s =>
    simp only [parsePayload] at h
    split at h
    case h_1 hid =>
      obtain rfl : id = 0x00 := BitVec.eq_of_toNat_eq hid
      obtain ⟨response, hs, rfl⟩ := parseFwVersion_eq_some_iff.1 h
      exact ⟨rfl, hs, rfl⟩
    case h_2 hid =>
      obtain rfl : id = 0x04 := BitVec.eq_of_toNat_eq hid
      obtain ⟨response, hs, rfl⟩ := parseGetValues_eq_some_iff.1 h
      exact ⟨rfl, hs, rfl⟩
    case h_7 hid =>
      obtain rfl : id = 0x1E := BitVec.eq_of_toNat_eq hid
      obtain ⟨rfl, hi⟩ := Option.ite_none_right_eq_some.1 h
      cases hi
      exact ⟨rfl, rfl, rfl⟩
    case h_8 => cases h
    all_goals exact encodes_of_oneWord h ‹_› fun w => ⟨rfl, rfl, rfl⟩

theorem encodes_of_decodePayload {s : List Byte} {i : Instr} (h : decodePayload s = .ok i) : Encodes i .payload s := by
  unfold decodePayload at h
  split at h
  · cases h
    exact encodes_of_parsePayload ‹_›
  · cases h

/-! ### All four encodings -/

theorem Encodes.decode_eq {i : Instr} {f : Format} {bytes : List Byte} (h : Encodes i f bytes) : decode f bytes = .ok i := by
  obtain ⟨hformat, rfl, hwf⟩ := h
  cases f with
  | hostOp => exact decodeHostOp_encode hformat
  | frame =>
    cases i with
    | frameShort payload crc =>
      obtain ⟨hlen, hcrc⟩ := of_decide_eq_true hwf
      exact decodeFrame_frameShort hlen hcrc
    | frameLong len rest => exact decodeFrame_frameLong len rest
    | _ => cases hformat
  | char =>
    cases i with
    | uartChar d =>
      have hdecode := decodeChar_charBytes (charWord_getLsbD_zero d) (charWord_getLsbD_nine d)
      rwa [charData_charWord] at hdecode
    | _ => cases hformat
  | payload =>
    simp only [decode, decodePayload, parsePayload_encode hformat]

theorem encodes_of_decode {f : Format} {bytes : List Byte} {i : Instr} (h : decode f bytes = .ok i) : Encodes i f bytes := by
  cases f with
  | hostOp => exact encodes_of_decodeHostOp h
  | frame => exact encodes_of_decodeFrame h
  | char => exact encodes_of_decodeChar h
  | payload => exact encodes_of_decodePayload h

/-- Settles O12: an instruction's bytes are its encoding in its own format, and each decoder reads those back. -/
theorem decodeOfEncode : Obligations.DecodeOfEncode :=
  fun _ hwf => Encodes.decode_eq ⟨rfl, rfl, hwf⟩

/-- Settles O13: each decoder accepts encodings only. -/
theorem encodeOfDecode : Obligations.EncodeOfDecode := by
  intro f bytes i h
  obtain ⟨hformat, hencoding, hwf⟩ := encodes_of_decode h
  exact ⟨hformat, hencoding, hwf⟩

/-! ### Words written out from the spec, and opcode-table words -/

theorem decode_of_encode_eq {i : Instr} {f : Format} {bytes : List Byte} (hformat : formatOf i = f)
    (hencoding : encode i = bytes) (hwf : WellFormed i = true) : decode f bytes = .ok i :=
  Encodes.decode_eq ⟨hformat, hencoding, hwf⟩

/-- Settles O14: each word is the encoding of its instruction. -/
theorem specWordsDecode : Obligations.SpecWordsDecode := by
  refine ⟨?_, ?_, ?_, ?_, ?_, ?_, ?_, ?_, ?_⟩ <;> exact decode_of_encode_eq rfl (by decide) (by decide)

/-- Settles O2: each code is the encoding of its reserved instruction, and all nine mean the same. -/
theorem reservedCodesDoNothing : Obligations.ReservedCodesDoNothing := by
  intro c hc
  simp only [List.mem_cons, List.not_mem_nil, or_false] at hc
  obtain rfl | rfl | rfl | rfl | rfl | rfl | rfl | rfl | rfl := hc <;> exact ⟨rfl, fun _ => rfl⟩

theorem exists_message_of_decodeTableWord {nbits w : Nat} {i : Instr} (h : decodeTableWord nbits w = some i) :
    ∃ f bytes, tableMessage nbits w = some (f, bytes) ∧ decode f bytes = .ok i := by
  unfold decodeTableWord at h
  split at h
  · rename_i f bytes hmessage
    split at h
    · rename_i j hdecode
      cases h
      exact ⟨f, bytes, hmessage, hdecode⟩
    · cases h
  · cases h

theorem offerWord_of_tableMessage {nbits w : Nat} {f : Format} {bytes : List Byte}
    (h : tableMessage nbits w = some (f, bytes)) (s : State) : offerWord s nbits w = { s with inbox := .message f bytes :: s.inbox } := by
  simp only [offerWord, h]

theorem step_withFetchWord {nbits w : Nat} {i : Instr} (h : decodeTableWord nbits w = some i) (s : State) :
    step (s.withFetchWord nbits w) = exec i s := by
  obtain ⟨f, bytes, hmessage, hdecode⟩ := exists_message_of_decodeTableWord h
  calc step (s.withFetchWord nbits w)
      = step { s with inbox := .message f bytes :: s.inbox } := congrArg step (offerWord_of_tableMessage hmessage s)
    _ = runMessage f bytes s := step_of_inbox_cons (s := { s with inbox := .message f bytes :: s.inbox }) rfl
    _ = exec i s := runMessage_of_decode hdecode s

/-- Settles O55: the word's message is the oldest event, and each of the six words decodes. -/
theorem fetchedWordRuns : Obligations.FetchedWordRuns :=
  ⟨fun s _ _ _ h => step_withFetchWord h s, fun s =>
    ⟨step_withFetchWord (by decide) s, step_withFetchWord (by decide) s, step_withFetchWord (by decide) s,
      step_withFetchWord (by decide) s, step_withFetchWord (by decide) s, step_withFetchWord (by decide) s⟩⟩

/-! ### Which messages are refused (log entry 7) -/

/-- The result is a next state or a fault. -/
def NotRefused (r : Result) : Prop := ∀ x, r ≠ .refused x

theorem notRefused_next (s : State) : NotRefused (.next s) := nofun

theorem notRefused_andThen {r : Result} {f : State → Result} (hr : NotRefused r) (hf : ∀ s, NotRefused (f s)) :
    NotRefused (andThen r f) := by
  cases r with
  | next s => exact hf s
  | fault e => exact nofun
  | refused x => exact absurd rfl (hr x)

theorem notRefused_orFault {α : Type} (r : Except Fault α) {f : α → Result} (hf : ∀ a, NotRefused (f a)) :
    NotRefused (orFault r f) := by
  cases r with
  | ok a => exact hf a
  | error e => exact nofun

theorem notRefused_ite {c : Prop} [Decidable c] {r r' : Result} (h : NotRefused r) (h' : NotRefused r') :
    NotRefused (if c then r else r') := by
  split
  · exact h
  · exact h'

theorem notRefused_sendFrame (payload : List Byte) (s : State) : NotRefused (sendFrame payload s) := by
  obtain ⟨t, h⟩ := sendFrame_answers payload s
  rw [h]
  exact notRefused_next t

theorem notRefused_txEmit (s : State) : NotRefused (txEmit s) :=
  notRefused_ite (notRefused_orFault _ fun _ => notRefused_next _) (notRefused_next s)

theorem notRefused_rxHeader (s : State) : NotRefused (rxHeader s) :=
  notRefused_orFault _ fun _ => notRefused_ite (notRefused_orFault _ fun _ => notRefused_next _) (notRefused_next _)

theorem notRefused_rxComplete (s : State) : NotRefused (rxComplete s) :=
  notRefused_orFault _ fun _ => notRefused_ite (notRefused_next _) <|
    notRefused_orFault _ fun _ => notRefused_orFault _ fun _ => notRefused_ite (notRefused_next _) (notRefused_next _)

theorem notRefused_takeByte (b : Byte) (s : State) : NotRefused (takeByte b s) :=
  notRefused_orFault _ fun _ => notRefused_ite (notRefused_rxHeader _) <|
    notRefused_ite (notRefused_rxComplete _) (notRefused_next _)

theorem notRefused_rxPop (s : State) : NotRefused (rxPop s) := by
  obtain ⟨-, h⟩ | ⟨-, b, q, -, h⟩ := rxPop_cases s <;> rw [h]
  · exact notRefused_next s
  · exact notRefused_takeByte b _

theorem notRefused_popAll (n : Nat) (s : State) : NotRefused (popAll n s) := by
  induction n generalizing s with
  | zero => exact notRefused_next s
  | succ n ih => exact notRefused_ite (notRefused_andThen (notRefused_rxPop s) ih) (notRefused_next s)

theorem notRefused_deliver (bytes : List Byte) (s : State) : NotRefused (deliver bytes s) := by
  induction bytes generalizing s with
  | nil => exact notRefused_next s
  | cons b bytes ih => exact notRefused_andThen (notRefused_popAll _ _) ih

theorem notRefused_execRxRead (s : State) : NotRefused (execRxRead s) :=
  notRefused_ite (notRefused_next _) <| notRefused_ite (notRefused_orFault _ fun _ => notRefused_next _) <|
    notRefused_ite (notRefused_next _) (notRefused_next _)

theorem notRefused_exec (i : Instr) (s : State) : NotRefused (exec i s) := by
  cases i with
  | statRead | crcInit | crcByte _ | crcRead | reserved7 | reserved8 | reserved9 | reservedA | reservedB | reservedC
  | reservedD | reservedE | reservedF | uartChar _ => exact notRefused_next _
  | txFrame _ | cmdSetDuty _ | cmdSetCurrent _ | cmdSetBrakeCurrent _ | cmdSetRpm _ | cmdKeepalive =>
    simp only [exec_txFrame, exec_cmdSetDuty, exec_cmdSetCurrent, exec_cmdSetBrakeCurrent, exec_cmdSetRpm,
      exec_cmdKeepalive]
    exact notRefused_sendFrame _ s
  | rxStart => exact notRefused_ite (notRefused_next _) (notRefused_next _)
  | rxRead => exact notRefused_execRxRead s
  | frameShort _ _ | frameLong _ _ => exact notRefused_deliver _ s
  | cmdFwVersion response | cmdGetValues response =>
    cases response with
    | none =>
      simp only [exec_fwVersionRequest, exec_getValuesRequest]
      exact notRefused_sendFrame _ s
    | some _ => exact notRefused_deliver _ s

/-- A message that is refused decodes to nothing, and is a host message or a container without ten bits. -/
theorem runMessage_refused {f : Format} {bytes : List Byte} {s : State} {r : Refusal}
    (h : runMessage f bytes s = .refused r) :
    (∀ i, decode f bytes ≠ .ok i) ∧
      (f = .hostOp ∧ r = .notAnOperation bytes ∨ f = .char ∧ r = .notACharacter bytes ∧ charContainer bytes = none) := by
  cases hdecode : decode f bytes with
  | ok i =>
    rw [runMessage_of_decode hdecode] at h
    exact absurd h (notRefused_exec i s r)
  | error e =>
    simp only [runMessage, hdecode] at h
    refine ⟨nofun, ?_⟩
    cases f with
    | hostOp =>
      cases h
      exact .inl ⟨rfl, rfl⟩
    | frame => exact absurd h (notRefused_deliver bytes s r)
    | payload => exact absurd h (notRefused_sendFrame bytes s r)
    | char =>
      cases hw : charContainer bytes with
      | none =>
        simp only [undecoded, hw] at h
        cases h
        exact .inr ⟨rfl, rfl, rfl⟩
      | some w =>
        simp only [undecoded, hw] at h
        cases h

/-- Settles O60: only a message can be refused, and only one that decodes to nothing. -/
theorem onlyMalformedMessagesAreRefused : Obligations.OnlyMalformedMessagesAreRefused := by
  intro e s r h
  cases e with
  | message f bytes =>
    obtain ⟨hdecode, ⟨rfl, rfl⟩ | ⟨rfl, rfl, hnone⟩⟩ := runMessage_refused h
    · exact ⟨bytes, .inl ⟨rfl, rfl, hdecode⟩⟩
    · exact ⟨bytes, .inr ⟨rfl, rfl, hnone⟩⟩
  | txEmit => exact absurd h (notRefused_txEmit s r)
  | txFinish => exact absurd h (notRefused_ite (notRefused_next _) (notRefused_next s) r)
  | rxPop => exact absurd h (notRefused_rxPop s r)
  | rxLinkErr => exact absurd h (notRefused_ite (notRefused_next _) (notRefused_next s) r)
  | rxTick => exact absurd h (notRefused_ite (notRefused_next s) (notRefused_next _) r)
  | utxBit | urxBit _ | tickDue | reset => cases h

/-! ### The levels of a character (R91) -/

theorem charSamples_charWord (b : Byte) : charSamples (charWord b) = charLevels b := by
  simp [charSamples, List.range_succ, charLevels, charWord]

/-! ### The transmitter sends what its shift register holds (R214) -/

/-- The transmit shift register after `n` bit times: ones come in from the left (R214). -/
def shiftedOut (w : BitVec 10) : Nat → BitVec 10
  | 0 => w
  | n + 1 => shiftedOut ((w >>> 1) ||| 0x200) n

theorem getLsbD_shiftIn (w : BitVec 10) {k : Nat} (hk : k < 10) :
    ((w >>> 1) ||| 0x200).getLsbD k = (decide (k = 9) || w.getLsbD (k + 1)) := by
  have hone : (0x200 : BitVec 10).getLsbD k = decide (k = 9) := by
    interval_cases k <;> rfl
  rw [BitVec.getLsbD_or, hone, BitVec.getLsbD_ushiftRight, Bool.or_comm, Nat.add_comm]

theorem getLsbD_shiftedOut (w : BitVec 10) (n : Nat) {k : Nat} (hk : k < 10) :
    (shiftedOut w n).getLsbD k = (decide (10 ≤ k + n) || w.getLsbD (k + n)) := by
  induction n generalizing w with
  | zero => simp [shiftedOut, hk]
  | succ n ih =>
    rw [shiftedOut, ih, ← Nat.add_assoc]
    by_cases hout : 10 ≤ k + n
    · simp [hout, Nat.le_succ_of_le hout]
    · have hnine : 10 ≤ k + n + 1 ↔ k + n = 9 := by omega
      rw [getLsbD_shiftIn w (Nat.not_le.1 hout), decide_eq_false hout, Bool.false_or, decide_eq_decide.2 hnine]

/-- After ten bit times nothing of the character is left (R214). -/
theorem shiftedOut_ten (w : BitVec 10) : shiftedOut w 10 = BitVec.allOnes 10 :=
  BitVec.eq_of_getLsbD_eq fun k hk => by
    rw [getLsbD_shiftedOut w 10 hk, BitVec.getLsbD_allOnes, decide_eq_true hk, decide_eq_true (Nat.le_add_left 10 k),
      Bool.true_or]

section
variable {s : State} {n : Nat}

theorem utxBit_of_busy (hn : n < 10) (hbits : s.utxn = BitVec.ofNat 4 (n + 1)) :
    utxBit s = { s with txd := s.utxsr.getLsbD 0, utxsr := (s.utxsr >>> 1) ||| 0x200, utxn := BitVec.ofNat 4 n } := by
  obtain ⟨hidle, -⟩ | ⟨-, hbit⟩ := utxBit_cases s
  · exfalso
    bv_omega
  · have hleft : s.utxn - 1 = BitVec.ofNat 4 n := by bv_omega
    rw [hbit, hleft]

/-- With `n` bits left, `n` bit times drive the low `n` bits of the shift register in order (R214). -/
theorem lineOf_utxBits (hn : n ≤ 10) (hbits : s.utxn = BitVec.ofNat 4 n) :
    lineOf (List.replicate n .utxBit) s = (List.range n).map s.utxsr.getLsbD := by
  induction n generalizing s with
  | zero => rfl
  | succ n ih =>
    have hline : lineOf (List.replicate (n + 1) .utxBit) s =
        (utxBit s).txd :: lineOf (List.replicate n .utxBit) (utxBit s) := rfl
    have hshift : ∀ k ∈ List.range n, ((s.utxsr >>> 1) ||| 0x200).getLsbD k = s.utxsr.getLsbD (k + 1) := fun k hk => by
      have hk := List.mem_range.1 hk
      rw [getLsbD_shiftIn _ (by omega), decide_eq_false (by omega), Bool.false_or]
    rw [hline, utxBit_of_busy hn hbits, ih (Nat.le_of_succ_le hn) rfl, List.range_succ_eq_map, List.map_cons, List.map_map,
      List.map_congr_left hshift]
    rfl

theorem runEvents_utxBits (hn : n < 10) (hbits : s.utxn = BitVec.ofNat 4 (n + 1)) :
    runEvents (List.replicate (n + 1) .utxBit) s =
      .next { s with utxsr := shiftedOut s.utxsr (n + 1), utxn := 0, txd := s.utxsr.getLsbD n } := by
  induction n generalizing s with
  | zero => exact congrArg Host.Outcome.next (utxBit_of_busy hn hbits)
  | succ n ih =>
    have hrun : runEvents (List.replicate (n + 2) .utxBit) s = runEvents (List.replicate (n + 1) .utxBit) (utxBit s) := rfl
    have hlevel : ((s.utxsr >>> 1) ||| 0x200).getLsbD n = s.utxsr.getLsbD (n + 1) := by
      rw [getLsbD_shiftIn _ (by omega), decide_eq_false (by omega), Bool.false_or]
    rw [hrun, utxBit_of_busy hn hbits, ih (Nat.lt_of_succ_lt hn) rfl, hlevel]
    rfl

end

/-- Settles O28: the ten bits of the shift register are the character, and only ones are left after them. -/
theorem tenBitsDriveCharacter : Obligations.TenBitsDriveCharacter := by
  intro b s hload hbits
  constructor
  · rw [lineOf_utxBits (Nat.le_refl 10) hbits, hload]
    exact charSamples_charWord b
  · rw [runEvents_utxBits (n := 9) (by omega) hbits, shiftedOut_ten, hload, charWord_getLsbD_nine]
    rfl

/-! ### The receiver reassembles what it samples (R220) -/

theorem runEvents_urxBits (xs : List Bool) (s : State) : runEvents (xs.map Event.urxBit) s = .next (urxSamples xs s) := by
  induction xs generalizing s with
  | nil => rfl
  | cons x xs ih => exact ih (urxBit x s)

theorem getLsbD_putBit (v : Byte) {i : Nat} (hi : i < 8) (x : Bool) {k : Nat} (hk : k < 8) :
    (putBit v i x).getLsbD k = if k = i then x else v.getLsbD k := by
  obtain hlt | rfl | hgt := Nat.lt_trichotomy k i
  · simp [putBit, hk, hlt, Nat.ne_of_lt hlt]
  · simp [putBit, hk]
  · simp [putBit, hk, Nat.not_lt_of_gt hgt, Nat.ne_of_gt hgt, Nat.sub_ne_zero_of_lt hgt]

theorem urxSamples_append (xs ys : List Bool) (s : State) : urxSamples (xs ++ ys) s = urxSamples ys (urxSamples xs s) :=
  List.foldl_append

theorem urxBit_start {s : State} (hbetween : s.urxn = 0) : urxBit false s = { s with urxn := 1 } := by
  rw [urxBit, if_pos hbetween]
  rfl

theorem urxBit_data {s : State} {k : Nat} (hk : k < 8) (hbits : s.urxn = BitVec.ofNat 4 (k + 1)) (x : Bool) :
    urxBit x s = { s with urxsr := putBit s.urxsr k x, urxn := BitVec.ofNat 4 (k + 2) } := by
  have hbusy : s.urxn ≠ 0 := by bv_omega
  have hdata : s.urxn ≤ 8 := by bv_omega
  have hindex : s.urxn.toNat - 1 = k := by bv_omega
  have hnext : s.urxn + 1 = BitVec.ofNat 4 (k + 2) := by bv_omega
  rw [urxBit, if_neg hbusy, if_pos hdata, hindex, hnext]

/-- With the bits of `b` below `k` received, the rest of them complete it (R220). -/
theorem urxSamples_data (b : Byte) {n k : Nat} {s : State} (hk : k + n = 8) (hbits : s.urxn = BitVec.ofNat 4 (k + 1))
    (hlow : ∀ j < k, s.urxsr.getLsbD j = b.getLsbD j) :
    urxSamples ((List.range' k n).map b.getLsbD) s = { s with urxsr := b, urxn := 9 } := by
  induction n generalizing k s with
  | zero =>
    obtain rfl : k = 8 := hk
    have hbyte : s.urxsr = b := BitVec.eq_of_getLsbD_eq hlow
    rw [← hbyte, show (9 : BitVec 4) = s.urxn from hbits.symm]
    rfl
  | succ n ih =>
    have hnext := urxBit_data (by omega) hbits (b.getLsbD k)
    have hbelow : ∀ j < k + 1, (putBit s.urxsr k (b.getLsbD k)).getLsbD j = b.getLsbD j := fun j hj => by
      rw [getLsbD_putBit _ (by omega) _ (by omega)]
      split
      · rename_i hjk
        rw [hjk]
      · exact hlow j (by omega)
    calc urxSamples ((List.range' k (n + 1)).map b.getLsbD) s
        = urxSamples ((List.range' (k + 1) n).map b.getLsbD) (urxBit (b.getLsbD k) s) := rfl
      _ = { s with urxsr := b, urxn := 9 } := by rw [hnext, ih (by omega) rfl hbelow]

section
variable {s : State} (b : Byte)

theorem pushByte_of_room (hroom : s.rxfifo.length < Config.rxFifoDepth) :
    pushByte b s = { s with rxfifo := s.rxfifo ++ [b] } :=
  if_pos ((hasRoom_depth_iff s.rxfifo).2 hroom)

theorem pushByte_of_full (hfull : Config.rxFifoDepth ≤ s.rxfifo.length) : pushByte b s = { s with ovr := true } :=
  if_neg fun h => absurd ((hasRoom_depth_iff s.rxfifo).1 h) (Nat.not_lt.2 hfull)

/-- Whether the byte finds room does not depend on the receiver's position (R34). -/
theorem pushByte_urxn (n : BitVec 4) : pushByte b { s with urxn := n } = { pushByte b s with urxn := n } := by
  obtain hroom | hfull := Nat.lt_or_ge s.rxfifo.length Config.rxFifoDepth
  · rw [pushByte_of_room b hroom]
    exact pushByte_of_room b hroom
  · rw [pushByte_of_full b hfull]
    exact pushByte_of_full b hfull

/-- A good stop bit pushes the byte and returns to between two characters (R220, R222). -/
theorem urxBit_stop (hbetween : s.urxn = 0) :
    urxBit true { s with urxsr := b, urxn := 9 } = pushByte b { s with urxsr := b } :=
  calc urxBit true { s with urxsr := b, urxn := 9 }
      = { pushByte b { s with urxsr := b, urxn := 9 } with urxn := 0 } := rfl
    _ = pushByte b { s with urxsr := b, urxn := 0 } := (pushByte_urxn b 0).symm
    _ = pushByte b { s with urxsr := b } := by rw [← hbetween]

/-- A good character received from between two characters is pushed (R220, R222). -/
theorem peerByte_of_between (hbetween : s.urxn = 0) : peerByte b s = pushByte b { s with urxsr := b } := by
  have hlevels : charLevels b = [false] ++ (List.range' 0 8).map b.getLsbD ++ [true] := rfl
  have hstart : urxSamples [false] s = { s with urxn := 1 } := urxBit_start hbetween
  have hdata := urxSamples_data b (s := { s with urxn := 1 }) (Nat.zero_add 8) rfl nofun
  rw [peerByte, charSamples_charWord, hlevels, urxSamples_append, urxSamples_append, hstart, hdata]
  exact urxBit_stop b hbetween

theorem peerByte_of_room (hbetween : s.urxn = 0) (hroom : s.rxfifo.length < Config.rxFifoDepth) :
    peerByte b s = { s with urxsr := b, rxfifo := s.rxfifo ++ [b] } :=
  (peerByte_of_between b hbetween).trans (pushByte_of_room b hroom)

theorem peerByte_of_full (hbetween : s.urxn = 0) (hfull : Config.rxFifoDepth ≤ s.rxfifo.length) :
    peerByte b s = { s with urxsr := b, ovr := true } :=
  (peerByte_of_between b hbetween).trans (pushByte_of_full b hfull)

end

/-- Settles O31: the ten samples are the character's levels, and received from between two characters they push its byte. -/
theorem uartCharIsReceived : Obligations.UartCharIsReceived := by
  intro d s
  have hexec : exec (.uartChar d) s = .next (peerByte d s) := exec_uartChar d s
  refine ⟨?_, ⟨_, hexec⟩, fun hbetween hroom => ?_, fun hbetween hfull => ?_⟩
  · rw [runEvents_urxBits, hexec, peerByte, charSamples_charWord]
  · rw [hexec, peerByte_of_room d hbetween hroom]
  · rw [hexec, peerByte_of_full d hbetween hfull]

/-! ### Bytes that arrive one after the other -/

theorem andThen_popAll_zero (r : Result) : andThen r (popAll 0) = r := by
  cases r <;> rfl

theorem deliver_cons (b : Byte) (bs : List Byte) (s : State) :
    deliver (b :: bs) s = andThen (deliverByte b s) (deliver bs) := rfl

/-- A byte that arrives now is popped at once (R176, R188). -/
structure Listening (s : State) : Prop where
  receiving : s.rxstate = .receiving
  queue : s.rxfifo = []
  between : s.urxn = 0
  noError : s.ferr = false ∧ s.ovr = false
  popFree : popHeldBack s = false

theorem FreshReceive.listening {s : State} (h : FreshReceive s) : Listening s :=
  ⟨h.receiving, h.queue, h.between, h.noError, h.popFree⟩

/-- A byte that arrives while the deframer listens goes through the empty queue into the buffer (R176). -/
theorem deliverByte_of_listening (b : Byte) {s : State} (h : Listening s) :
    deliverByte b s = takeByte b { s with urxsr := b } := by
  obtain ⟨hs, hqueue, hbetween, ⟨hferr, hovr⟩, hfree⟩ := h
  have hpeer : peerByte b s = { s with urxsr := b, rxfifo := [b] } := by
    rw [peerByte_of_room b hbetween (by simp [hqueue, Config.rxFifoDepth]), hqueue]
    rfl
  have henabled : rxPopEnabled { s with urxsr := b, rxfifo := [b] } = true :=
    (rxPopEnabled_iff _).2 ⟨hs, List.cons_ne_nil b [], hferr, hovr, hfree⟩
  calc deliverByte b s
      = popAll 1 { s with urxsr := b, rxfifo := [b] } := by rw [deliverByte, hpeer]; rfl
    _ = rxPop { s with urxsr := b, rxfifo := [b] } := by rw [popAll, if_pos henabled, andThen_popAll_zero]
    _ = takeByte b { s with urxsr := b, rxfifo := [] } := if_pos henabled
    _ = takeByte b { s with urxsr := b } := by rw [← hqueue]

/-- The state after the bytes `f` were received and stored from the beginning of the buffer, before they are judged. -/
def received (f : List Byte) (s : State) : State :=
  { s with urxsr := f.getLast?.getD s.urxsr, rxbuf := Memory.holding f, rxcnt := BitVec.ofNat 9 f.length }

theorem FreshReceive.received_nil {s : State} (h : FreshReceive s) : received [] s = s := by
  have hbuffer : Memory.holding [] = s.rxbuf := h.buffer.symm
  have hcount : BitVec.ofNat 9 0 = s.rxcnt := h.count.symm
  rw [received, hbuffer, List.length_nil, hcount]
  rfl

theorem Listening.received {s : State} (h : Listening s) (f : List Byte) : Listening (received f s) :=
  ⟨h.receiving, h.queue, h.between, h.noError, h.popFree⟩

section
variable {f : List Byte} {s : State}

theorem storeByte_received (b : Byte) (hroom : f.length < Config.frameMax) :
    storeByte b { received f s with urxsr := b } = received (f ++ [b]) s := by
  have hroom : f.length < 260 := hroom
  have hcount : (BitVec.ofNat 9 f.length).toNat = f.length := by
    rw [BitVec.toNat_ofNat]
    omega
  have hnext : BitVec.ofNat 9 f.length + 1 = BitVec.ofNat 9 (f.length + 1) := by bv_omega
  simp only [storeByte, received, hcount, hnext, ← Memory.holding_snoc, List.getLast?_append, List.length_append]
  rfl

/-- The byte after `f` is judged by its position (R176). -/
theorem deliver_cons_received (h : Listening s) (hroom : f.length < Config.frameMax) (b : Byte) (bs : List Byte) :
    deliver (b :: bs) (received f s) =
      andThen (if f.length + 1 = 2 then rxHeader (received (f ++ [b]) s)
        else if 3 ≤ f.length + 1 ∧ f.length + 1 = s.rxtotal.toNat then rxComplete (received (f ++ [b]) s)
        else .next (received (f ++ [b]) s)) (deliver bs) := by
  have hmax : f.length < 260 := hroom
  have hcount : (received f s).rxcnt.toNat = f.length := by
    rw [received, BitVec.toNat_ofNat]
    omega
  have hsecond : (received f s).rxcnt + 1 = 2 ↔ f.length + 1 = 2 := by bv_omega
  have hthird : 3 ≤ (received f s).rxcnt + 1 ↔ 3 ≤ f.length + 1 := by bv_omega
  have htotal : (received f s).rxcnt + 1 = s.rxtotal ↔ f.length + 1 = s.rxtotal.toNat := by bv_omega
  have htake := takeByte_of_room b (s := { received f s with urxsr := b })
    (show (received f s).rxcnt.toNat + 1 ≤ _ by omega)
  rw [storeByte_received b hroom] at htake
  rw [deliver_cons, deliverByte_of_listening b (h.received f), htake]
  simp only [← hsecond, ← hthird, ← htotal]
  rfl

/-- A byte that neither completes the header nor the frame is stored (R176). -/
theorem deliver_cons_of_stored (h : Listening s) (hroom : f.length < Config.frameMax) (b : Byte) (bs : List Byte)
    (hsecond : f.length + 1 ≠ 2) (hlast : ¬(3 ≤ f.length + 1 ∧ f.length + 1 = s.rxtotal.toNat)) :
    deliver (b :: bs) (received f s) = deliver bs (received (f ++ [b]) s) := by
  rw [deliver_cons_received h hroom, if_neg hsecond, if_neg hlast]
  rfl

/-- Bytes between the header and the end of the frame are stored (R176). -/
theorem deliver_append_received {bs : List Byte} (h : Listening s) (hheader : 2 ≤ f.length)
    (hbefore : f.length + bs.length < s.rxtotal.toNat) (hmax : s.rxtotal.toNat ≤ Config.frameMax) (rest : List Byte) :
    deliver (bs ++ rest) (received f s) = deliver rest (received (f ++ bs) s) := by
  induction bs generalizing f with
  | nil => rw [List.append_nil, List.nil_append]
  | cons b bs ih =>
    rw [List.length_cons] at hbefore
    have hlength : (f ++ [b]).length = f.length + 1 := List.length_append
    calc deliver (b :: bs ++ rest) (received f s)
        = deliver (bs ++ rest) (received (f ++ [b]) s) :=
          deliver_cons_of_stored h (by omega) b (bs ++ rest) (by omega) (by omega)
      _ = deliver rest (received (f ++ [b] ++ bs) s) := ih (by omega) (by omega)
      _ = deliver rest (received (f ++ b :: bs) s) := by rw [List.append_assoc]; rfl

end

/-- The end of a frame whose length byte and end mark are in place: judged by its checksum field alone (R178). -/
theorem rxComplete_frameBytes {payload : List Byte} (crc : Half) {s : State} (hlen : payload.length ≤ Config.maxPayload)
    (hrxlen : s.rxlen = lenByte payload.length) (htotal : s.rxtotal = frameTotal payload.length) :
    rxComplete (received (frameBytes payload crc) s) =
      .next { received (frameBytes payload crc) s with
        crccalc := crc16 payload, crcrecv := crc, rxerr := if crc16 payload = crc then .ok else .checksumMismatch,
        rxstate := .done } := by
  have hread (k : Nat) {b : Byte} (hb : [hiByte crc, loByte crc, Config.endMark][k]? = some b) :
      readByte (Memory.holding (frameBytes payload crc)) (payload.length + 2 + k) = .ok b := by
    rw [readByte_ok_iff, Memory.read_holding, frameBytes_getElem, hb]
  have hlenNat : s.rxlen.toNat = payload.length := by rw [hrxlen, lenByte_toNat _ hlen]
  have htotalNat : (received (frameBytes payload crc) s).rxtotal.toNat - 1 = payload.length + 2 + 2 := by
    rw [received, htotal, frameTotal_toNat _ hlen]
    omega
  have hend : readByte (received (frameBytes payload crc) s).rxbuf (payload.length + 2 + 2) = .ok Config.endMark :=
    hread 2 rfl
  have hslice : payloadSlice (received (frameBytes payload crc) s) = .ok payload := by
    rw [payloadSlice, received, hlenNat, memRead_holding _ _ _ (by rw [frameBytes_length]; omega), frameBytes_drop,
      List.take_left]
  have hfield : receivedChecksum (received (frameBytes payload crc) s) = .ok crc := by
    have hhi : readByte (Memory.holding (frameBytes payload crc)) (payload.length + 2) = .ok (hiByte crc) := hread 0 rfl
    have hlo : readByte (Memory.holding (frameBytes payload crc)) (payload.length + 3) = .ok (loByte crc) := hread 1 rfl
    simp only [receivedChecksum, received, hlenNat, hhi, hlo, halfOf_bytes]
  rw [rxComplete, htotalNat, hend]
  simp only [orFault, hslice, hfield]
  rw [if_neg (not_not.2 rfl)]
  split
  · rename_i hsum
    subst hsum
    rfl
  · rfl

theorem rxHeader_received (start len : Byte) (s : State) :
    rxHeader (received [start, len] s) =
      if start = Config.startShort then .next (received [start, len] { s with rxlen := len, rxtotal := declaredTotal len })
      else .next (raise .unsupportedFrame none (received [start, len] s)) := rfl

/-- The first two bytes of a fresh receive operation are its header (R177). -/
theorem deliver_header (start len : Byte) (bs : List Byte) {s : State} (h : FreshReceive s) :
    deliver (start :: len :: bs) s = andThen (rxHeader (received [start, len] s)) (deliver bs) :=
  have hroom {f : List Byte} (hf : f.length ≤ 1) : f.length < Config.frameMax := Nat.lt_of_le_of_lt hf (by decide)
  calc deliver (start :: len :: bs) s
      = deliver (start :: len :: bs) (received [] s) := by rw [h.received_nil]
    _ = deliver (len :: bs) (received [start] s) :=
        deliver_cons_of_stored h.listening (f := []) (hroom (by simp)) start (len :: bs) nofun nofun
    _ = andThen (rxHeader (received [start, len] s)) (deliver bs) := by
        rw [deliver_cons_received h.listening (f := [start]) (hroom (by simp)), List.length_singleton, if_pos rfl]
        rfl

/-- A short frame is received whole, whatever its checksum field holds (R176 to R178). -/
theorem deliver_frameBytes {payload : List Byte} (crc : Half) {s : State} (hlen : payload.length ≤ Config.maxPayload)
    (h : FreshReceive s) :
    deliver (frameBytes payload crc) s =
      rxComplete (received (frameBytes payload crc)
        { s with rxlen := lenByte payload.length, rxtotal := frameTotal payload.length }) := by
  obtain ⟨u, hu⟩ : ∃ u, u = { s with rxlen := lenByte payload.length, rxtotal := frameTotal payload.length } := ⟨_, rfl⟩
  have hlistening : Listening u := by
    rw [hu]
    exact ⟨h.receiving, h.queue, h.between, h.noError, h.popFree⟩
  have htotal : u.rxtotal.toNat = payload.length + 5 := by rw [hu, frameTotal_toNat _ hlen]
  have hmax : payload.length ≤ 255 := hlen
  have hfits : u.rxtotal.toNat ≤ Config.frameMax := by
    rw [htotal, Config.frameMax]
    omega
  have hheader : rxHeader (received [Config.startShort, lenByte payload.length] s) =
      .next (received [Config.startShort, lenByte payload.length] u) := by
    rw [rxHeader_received, if_pos rfl, declaredTotal_lenByte _ hlen, hu]
  have hbefore : ([Config.startShort, lenByte payload.length] ++ (payload ++ be16 crc)).length = payload.length + 4 := by
    simp [be16]
  have hframe : [Config.startShort, lenByte payload.length] ++ (payload ++ be16 crc) ++ [Config.endMark] =
      frameBytes payload crc := rfl
  rw [← hu]
  calc deliver (frameBytes payload crc) s
      = deliver (payload ++ be16 crc ++ [Config.endMark]) (received [Config.startShort, lenByte payload.length] u) := by
        rw [frameBytes, deliver_header _ _ _ h, hheader]
        rfl
    _ = deliver [Config.endMark] (received ([Config.startShort, lenByte payload.length] ++ (payload ++ be16 crc)) u) :=
        deliver_append_received hlistening (by simp) (by rw [← List.length_append, hbefore]; omega) hfits _
    _ = rxComplete (received (frameBytes payload crc) u) := by
        rw [deliver_cons_received hlistening (by omega), hbefore, if_neg (by omega), if_pos (by omega), hframe]
        exact andThen_popAll_zero _

/-- Settles O48: the frame is received whole, and its completion is judged by the checksum field. -/
theorem frameShortIsDeframed : Obligations.FrameShortIsDeframed := by
  intro p crc s hlen h
  have hlast : (frameBytes p crc).getLast?.getD s.urxsr = 0x03 := by
    simp [frameBytes, Config.endMark, List.getLast?_cons]
  rw [exec_frameShort, deliver_frameBytes crc hlen h, rxComplete_frameBytes crc hlen rfl rfl, ← hlast]
  simp only [received, frameBytes_length]
  rfl

/-! ### Bytes that arrive with no receive operation in progress are queued (R218, R222) -/

theorem popAll_of_unattended {s : State} (hs : s.rxstate ≠ .receiving) (n : Nat) : popAll n s = .next s := by
  cases n with
  | zero => rfl
  | succ n => exact if_neg fun h => absurd ((rxPopEnabled_iff s).1 h).1 hs

theorem unattended_pushByte {s : State} (h : Unattended s) (b : Byte) : Unattended (pushByte b { s with urxsr := b }) := by
  obtain ⟨-, hpush⟩ | ⟨-, hpush⟩ := pushByte_cases b { s with urxsr := b } <;> rw [hpush] <;>
    exact ⟨h.notReceiving, h.between⟩

theorem deliverByte_of_unattended (b : Byte) {s : State} (h : Unattended s) :
    deliverByte b s = .next (pushByte b { s with urxsr := b }) := by
  rw [deliverByte, peerByte_of_between b h.between, popAll_of_unattended (unattended_pushByte h b).notReceiving]

section
variable {q arrived : List Byte} {b : Byte}

theorem queueAfter_nil : queueAfter q [] = q := by
  rw [queueAfter, List.take_nil, List.append_nil]

theorem overrunAfter_nil (ovr : Bool) : overrunAfter q [] ovr = ovr := by
  simp [overrunAfter]

theorem queueAfter_cons_of_room (hroom : q.length < Config.rxFifoDepth) :
    queueAfter (q ++ [b]) arrived = queueAfter q (b :: arrived) := by
  have hleft : Config.rxFifoDepth - q.length = Config.rxFifoDepth - (q ++ [b]).length + 1 := by
    rw [List.length_append, List.length_singleton]
    omega
  rw [queueAfter, queueAfter, hleft, List.take_succ_cons, List.append_assoc]
  rfl

theorem queueAfter_of_full (hfull : Config.rxFifoDepth ≤ q.length) : queueAfter q arrived = q := by
  rw [queueAfter, Nat.sub_eq_zero_of_le hfull, List.take_zero, List.append_nil]

theorem overrunAfter_cons_of_room (hroom : q.length < Config.rxFifoDepth) (ovr : Bool) :
    overrunAfter (q ++ [b]) arrived ovr = overrunAfter q (b :: arrived) ovr := by
  have hleft : Config.rxFifoDepth - (q ++ [b]).length < arrived.length ↔
      Config.rxFifoDepth - q.length < (b :: arrived).length := by
    rw [List.length_append, List.length_singleton, List.length_cons]
    omega
  rw [overrunAfter, overrunAfter, decide_eq_decide.2 hleft]

theorem overrunAfter_cons_of_full (hfull : Config.rxFifoDepth ≤ q.length) (ovr : Bool) :
    overrunAfter q (b :: arrived) ovr = true := by
  simp [overrunAfter, Nat.sub_eq_zero_of_le hfull]

theorem overrunAfter_true : overrunAfter q arrived true = true := rfl

end

/-- Bytes that arrive unattended are queued as far as there is room, and overrun after that (R222). -/
theorem deliver_of_unattended (bs : List Byte) {s : State} (h : Unattended s) :
    deliver bs s = .next { s with urxsr := bs.getLast?.getD s.urxsr, rxfifo := queueAfter s.rxfifo bs,
                                  ovr := overrunAfter s.rxfifo bs s.ovr } := by
  induction bs generalizing s with
  | nil => rw [queueAfter_nil, overrunAfter_nil]; rfl
  | cons b bs ih =>
    have hcons : deliver (b :: bs) s = deliver bs (pushByte b { s with urxsr := b }) := by
      rw [deliver_cons, deliverByte_of_unattended b h]
      rfl
    have hlast : (b :: bs).getLast?.getD s.urxsr = bs.getLast?.getD b := by
      rw [List.getLast?_cons, Option.getD_some]
    rw [hcons, ih (unattended_pushByte h b), hlast]
    obtain hroom | hfull := Nat.lt_or_ge s.rxfifo.length Config.rxFifoDepth
    · rw [pushByte_of_room (s := { s with urxsr := b }) b hroom, ← queueAfter_cons_of_room hroom,
        ← overrunAfter_cons_of_room hroom]
    · rw [pushByte_of_full (s := { s with urxsr := b }) b hfull, queueAfter_of_full (arrived := b :: bs) hfull,
        overrunAfter_cons_of_full hfull, queueAfter_of_full hfull, overrunAfter_true]

/-- Settles O49: the second byte ends the operation, and the rest arrives unattended. -/
theorem frameLongIsUnsupported : Obligations.FrameLongIsUnsupported := by
  intro len rest s h
  obtain ⟨u, hu⟩ : ∃ u, u = raise .unsupportedFrame none (received [Config.startLong, hiByte len] s) := ⟨_, rfl⟩
  have hended : Unattended u := by
    rw [hu]
    exact ⟨nofun, h.between⟩
  have hheader : rxHeader (received [Config.startLong, hiByte len] s) = .next u := by
    rw [rxHeader_received, if_neg (by decide), hu]
  have hqueue : u.rxfifo = [] := by rw [hu]; exact h.queue
  have hovr : u.ovr = false := by rw [hu]; exact h.noError.2
  have hbytes : Config.startLong :: (be16 len ++ rest) = Config.startLong :: hiByte len :: loByte len :: rest := rfl
  have hdeliver : deliver (Config.startLong :: hiByte len :: loByte len :: rest) s = deliver (loByte len :: rest) u := by
    rw [deliver_header _ _ _ h, hheader, andThen]
  rw [exec_frameLong, hbytes, hdeliver, deliver_of_unattended _ hended, hqueue, hovr, List.getLast?_cons,
    Option.getD_some, hu]
  rfl

end Sys2Proof.Machine
end

section
/-! Statements of spec/40_crc.md: the CRC unit's operations (R135 to R138), the table-driven step as the bitwise one (R131 to
R133), and the properties of `crc16` (R140): its linearity and (d) come from the bitwise step being linear and injective. -/

namespace Sys2Proof.Machine

/-! ### One bit of the generation rule is a linear and injective map (R132) -/

theorem crcShift_eq_xor (r : Half) : crcShift r = (r <<< 1) ^^^ (if r.msb then Config.crcPoly else 0#16) := by
  rw [crcShift]
  split
  · rfl
  · rw [BitVec.xor_zero]

theorem crcShift_of_lt {r : Half} (h : r.toNat < 2 ^ 15) : crcShift r = r <<< 1 := by
  have hmsb : r.msb = false := BitVec.msb_eq_false_iff_two_mul_lt.2 (by omega)
  rw [crcShift, hmsb, if_neg Bool.false_ne_true]

theorem crcShift_xor (r t : Half) : crcShift (r ^^^ t) = crcShift r ^^^ crcShift t := by
  have hpoly : (if (r ^^^ t).msb then Config.crcPoly else 0#16) =
      (if r.msb then Config.crcPoly else 0#16) ^^^ (if t.msb then Config.crcPoly else 0#16) := by
    rw [BitVec.msb_xor]
    cases r.msb <;> cases t.msb <;> rfl
  rw [crcShift_eq_xor, crcShift_eq_xor r, crcShift_eq_xor t, hpoly, BitVec.shiftLeft_xor_distrib]
  ac_rfl

/-- A bit shifted out of the top comes back at bit 0, because the polynomial is odd. -/
theorem eq_zero_of_crcShift_eq_zero {r : Half} (h : crcShift r = 0#16) : r = 0#16 := by
  have hmsb : r.msb = false := by
    by_contra hset
    have hbit : ((r <<< 1) ^^^ Config.crcPoly).getLsbD 0 = true := by
      rw [BitVec.getLsbD_xor, BitVec.getLsbD_shiftLeft]
      rfl
    rw [crcShift, if_pos (Bool.eq_true_of_not_eq_false hset)] at h
    rw [h] at hbit
    exact absurd hbit (by decide)
  have hlt : 2 * r.toNat < 2 ^ 16 := BitVec.msb_eq_false_iff_two_mul_lt.1 hmsb
  have hshift : (r <<< 1).toNat = 0 := by
    rw [← crcShift_of_lt (by omega), h]
    rfl
  apply BitVec.eq_of_toNat_eq
  rw [BitVec.toNat_shiftLeft, Nat.shiftLeft_eq] at hshift
  rw [BitVec.toNat_ofNat]
  omega

theorem crcShift_injective : Function.Injective crcShift := by
  intro r t h
  have hdiff : crcShift (r ^^^ t) = 0#16 := by rw [crcShift_xor, h, BitVec.xor_self]
  exact BitVec.xor_eq_zero_iff.1 (eq_zero_of_crcShift_eq_zero hdiff)

/-! ### So are `n` bits of it -/

theorem crcShifts_xor (n : Nat) (r t : Half) : crcShifts n (r ^^^ t) = crcShifts n r ^^^ crcShifts n t := by
  induction n generalizing r t with
  | zero => rfl
  | succ n ih => rw [crcShifts, crcShift_xor, ih]; rfl

theorem crcShifts_injective (n : Nat) : Function.Injective (crcShifts n) := by
  induction n with
  | zero => exact fun _ _ h => h
  | succ n ih => exact ih.comp crcShift_injective

/-- While no 1 reaches the top bit, the generation rule only shifts. -/
theorem crcShifts_of_lt {n : Nat} {r : Half} (h : r.toNat * 2 ^ n < 2 ^ 16) : crcShifts n r = r <<< n := by
  induction n generalizing r with
  | zero => rw [BitVec.shiftLeft_zero]; rfl
  | succ n ih =>
    have htwice : r.toNat * 2 * 2 ^ n < 2 ^ 16 := by rwa [Nat.mul_assoc, ← Nat.pow_succ']
    have hlt : r.toNat * 2 < 2 ^ 16 := Nat.lt_of_le_of_lt (Nat.le_mul_of_pos_right _ (Nat.two_pow_pos n)) htwice
    have htoNat : (r <<< 1).toNat = r.toNat * 2 := by
      rw [BitVec.toNat_shiftLeft, Nat.shiftLeft_eq, Nat.pow_one, Nat.mod_eq_of_lt hlt]
    rw [crcShifts, crcShift_of_lt (by omega), ih (by rwa [htoNat]), ← BitVec.shiftLeft_add, Nat.add_comm]

/-! ### The table-driven step is the bitwise one (R131 to R133) -/

/-- Every entry of the table is eight bits of the generation rule on its index (R132): the 256 entries, computed. -/
theorem crcTab_eq_crcShifts : ∀ b : Byte, crcTab b = crcShifts 8 (b.setWidth 16 <<< 8) := by
  decide +kernel

theorem hiByte_shiftLeft (b : Byte) : hiByte (b.setWidth 16 <<< 8) = b := by
  have := b.isLt
  apply BitVec.eq_of_toNat_eq
  simp only [hiByte_toNat, BitVec.toNat_shiftLeft, BitVec.toNat_setWidth, Nat.shiftLeft_eq]
  omega

theorem xor_of_bytes (c : Half) : ((hiByte c).setWidth 16 <<< 8) ^^^ (loByte c).setWidth 16 = c := by
  apply BitVec.eq_of_getLsbD_eq
  intro i hi
  obtain hlow | hhigh := Nat.lt_or_ge i 8
  · simp [loByte, hlow, hi]
  · simp [hiByte, loByte, Nat.not_lt.2 hhigh, hi, Nat.add_sub_cancel' hhigh, show i - 8 < 8 by omega]

/-- Only the low byte is left after a shift by eight. -/
theorem loByte_shiftLeft (c : Half) : (loByte c).setWidth 16 <<< 8 = c <<< 8 := by
  apply BitVec.eq_of_getLsbD_eq
  intro i hi
  simp [loByte, show i - 8 < 8 by omega, show i - 8 < 16 by omega]

theorem crcShifts_loByte (c : Half) : crcShifts 8 ((loByte c).setWidth 16) = c <<< 8 := by
  have := (loByte c).isLt
  rw [crcShifts_of_lt (by rw [BitVec.toNat_setWidth]; omega), loByte_shiftLeft]

/-- The high byte of `c` meets the operand in the table; the low byte is only shifted. -/
theorem crcStep_eq_bitwise (c : Half) (b : Byte) : crcStep c b = crcStepBitwise c b := by
  have hsplit : c ^^^ (b.setWidth 16 <<< 8) = ((hiByte c ^^^ b).setWidth 16 <<< 8) ^^^ (loByte c).setWidth 16 := by
    conv_lhs => rw [← xor_of_bytes c]
    rw [BitVec.setWidth_xor, BitVec.shiftLeft_xor_distrib]
    ac_rfl
  rw [crcStepBitwise, hsplit, crcShifts_xor, ← crcTab_eq_crcShifts, crcShifts_loByte, crcStep]

/-- Settles O8: by `crcStep_eq_bitwise`; the check value is computed. -/
theorem crcStepIsBitwise : Obligations.CrcStepIsBitwise :=
  ⟨crcStep_eq_bitwise, by decide⟩

theorem crcStep_xor (c d : Half) (b e : Byte) : crcStep (c ^^^ d) (b ^^^ e) = crcStep c b ^^^ crcStep d e := by
  have hoperands : c ^^^ d ^^^ ((b ^^^ e).setWidth 16 <<< 8) =
      (c ^^^ (b.setWidth 16 <<< 8)) ^^^ (d ^^^ (e.setWidth 16 <<< 8)) := by
    rw [BitVec.setWidth_xor, BitVec.shiftLeft_xor_distrib]
    ac_rfl
  simp only [crcStep_eq_bitwise, crcStepBitwise, hoperands, crcShifts_xor]

theorem crcStep_left_injective (b : Byte) : Function.Injective fun c => crcStep c b := by
  intro c d h
  simp only [crcStep_eq_bitwise] at h
  exact (BitVec.xor_left_inj _).1 (crcShifts_injective 8 h)

theorem crcStep_right_injective (c : Half) : Function.Injective (crcStep c) := by
  intro b e h
  simp only [crcStep_eq_bitwise] at h
  have hshifted := (BitVec.xor_right_inj _).1 (crcShifts_injective 8 h)
  rw [← hiByte_shiftLeft b, hshifted, hiByte_shiftLeft]

/-! ### The checksum function (R140) -/

theorem foldl_crcStep_xor {a b : List Byte} (h : a.length = b.length) (c d : Half) :
    (List.zipWith (· ^^^ ·) a b).foldl crcStep (c ^^^ d) = a.foldl crcStep c ^^^ b.foldl crcStep d := by
  induction a generalizing b c d with
  | nil =>
    cases b with
    | nil => rfl
    | cons y b => cases h
  | cons x a ih =>
    cases b with
    | nil => cases h
    | cons y b =>
      rw [List.zipWith_cons_cons, List.foldl_cons, crcStep_xor, ih (Nat.succ.inj h)]
      rfl

/-- Settles O9: the fold from `0 ^^^ 0`. -/
theorem checksumIsLinear : Obligations.ChecksumIsLinear :=
  fun _ _ h => foldl_crcStep_xor h Config.crcInit Config.crcInit

theorem crc16_zeros_append (n : Nat) (a : List Byte) : crc16 (List.replicate n 0x00 ++ a) = crc16 a := by
  have hstep : crcStep Config.crcInit 0x00 = Config.crcInit := rfl
  induction n with
  | zero => rfl
  | succ n ih =>
    rw [List.replicate_succ, List.cons_append, crc16, List.foldl_cons, hstep]
    exact ih

theorem crc16_singleton (b : Byte) : crc16 [b] = crcTab b := by
  have hstep : crc16 [b] = crcTab (0#8 ^^^ b) ^^^ 0#16 := rfl
  rw [hstep, BitVec.zero_xor, BitVec.xor_zero]

/-- The operand that cancels the high byte leaves the low byte in its place. -/
theorem crcStep_hiByte (c : Half) : crcStep c (hiByte c) = c <<< 8 := by
  have htab : crcTab 0#8 = 0#16 := rfl
  rw [crcStep, BitVec.xor_self, htab, BitVec.zero_xor]

theorem crc16_append_be16 (a : List Byte) : crc16 (a ++ be16 (crc16 a)) = 0#16 := by
  have hlow : loByte (crc16 a) = hiByte (crc16 a <<< 8) := by
    rw [← loByte_shiftLeft, hiByte_shiftLeft]
  calc crc16 (a ++ be16 (crc16 a))
      = crcStep (crcStep (crc16 a) (hiByte (crc16 a))) (loByte (crc16 a)) := crc16_append _ _
    _ = crc16 a <<< 8 <<< 8 := by rw [crcStep_hiByte, hlow, crcStep_hiByte]
    _ = 0#16 := by rw [← BitVec.shiftLeft_add, BitVec.shiftLeft_eq_zero (by omega)]

/-- Three bytes with the checksum of three zero bytes: `0x01` and its own checksum. -/
theorem exists_crc16_collision {n : Nat} (h : 2 < n) :
    ∃ a b : List Byte, a.length = n ∧ b.length = n ∧ a ≠ b ∧ crc16 a = crc16 b := by
  obtain ⟨m, rfl⟩ := Nat.exists_eq_add_of_le' h
  have hresidue : crc16 (0x01 :: be16 (crc16 [0x01])) = 0#16 := crc16_append_be16 [0x01]
  refine ⟨List.replicate m 0x00 ++ 0x01 :: be16 (crc16 [0x01]), List.replicate m 0x00 ++ List.replicate 3 0x00,
    ?_, ?_, ?_, ?_⟩
  · simp
  · simp
  · exact fun heq => absurd (List.append_cancel_left heq) (by decide)
  · rw [crc16_zeros_append, crc16_zeros_append, hresidue]
    rfl

/-- Settles O10: one lemma for each of R140 (a), (b), (e), (f) and (g); the empty sequence and `[0x00]` collide too. -/
theorem checksumZerosResidueCollisions : Obligations.ChecksumZerosResidueCollisions :=
  ⟨crc16_nil, crc16_zeros_append, crc16_singleton, crc16_append_be16, rfl, fun _ => exists_crc16_collision⟩

theorem foldl_crcStep_injective (a : List Byte) : Function.Injective fun c => a.foldl crcStep c := by
  induction a with
  | nil => exact fun _ _ h => h
  | cons x a ih => exact ih.comp (crcStep_left_injective x)

/-- Sequences that differ in one byte have different checksums: the step tells the bytes apart, and the steps after it tell its
values apart. -/
theorem crc16_replace_byte_ne (front back : List Byte) {x y : Byte} (h : y ≠ x) :
    crc16 (front ++ y :: back) ≠ crc16 (front ++ x :: back) := by
  rw [crc16_append, crc16_append]
  intro heq
  exact h (crcStep_right_injective _ (foldl_crcStep_injective back heq))

theorem xor_oneBit_ne (x : Byte) {k : Nat} (h : k < 8) : x ^^^ (1#8 <<< k) ≠ x := by
  intro heq
  have hbit : (x ^^^ (1#8 <<< k)).getLsbD k = !x.getLsbD k := by simp [h]
  rw [heq] at hbit
  exact Bool.not_ne_self _ hbit.symm

/-- Settles O11: a flipped bit is a different byte. -/
theorem singleBitChangesChecksum : Obligations.SingleBitChangesChecksum := by
  intro a i k hi hk
  have hflip : flipBit a i k = a.take i ++ (a[i] ^^^ (1#8 <<< k)) :: a.drop (i + 1) := by
    rw [flipBit, List.getD_eq_getElem _ _ hi, List.set_eq_take_append_cons_drop, if_pos hi]
  have hsame : a = a.take i ++ a[i] :: a.drop (i + 1) := by
    rw [List.getElem_cons_drop, List.take_append_drop]
  rw [hflip]
  conv_rhs => rw [hsame]
  exact crc16_replace_byte_ne _ _ (xor_oneBit_ne _ hk)

/-! ### The CRC unit's operations (R135 to R138) -/

theorem runEvent_messageOf {i : Instr} (h : formatOf i = .hostOp) (s : State) : runEvent (messageOf i) s = exec i s := by
  have hdecode : decode (formatOf i) (encode i) = .ok i := by rw [h]; exact decodeHostOp_encode h
  exact runMessage_of_decode hdecode s

theorem exec_crcInit (s : State) : exec .crcInit s = .next { s with crc := 0x0000, answer := .nothing } := rfl

theorem exec_crcByte (b : Byte) (s : State) :
    exec (.crcByte b) s = .next { s with crc := crcStep s.crc b, answer := .nothing } := rfl

theorem exec_crcRead (s : State) : exec .crcRead s = .next { s with answer := .crcValue s.crc } := rfl

/-- Settles O3: the operation code decodes, and the effect is `exec_crcInit`. -/
theorem crcInitClears : Obligations.CrcInitClears :=
  ⟨decodeHostOp_encode (i := .crcInit) rfl, exec_crcInit⟩

/-- Settles O5: the operation code decodes, and the effect is `exec_crcRead`. -/
theorem crcReadReturnsCrc : Obligations.CrcReadReturnsCrc :=
  ⟨decodeHostOp_encode (i := .crcRead) rfl, rfl, exec_crcRead⟩

/-- The table index of R131 on naturals. -/
theorem hiByte_xor_eq_ofNat (c : Half) (b : Byte) :
    hiByte c ^^^ b = BitVec.ofNat 8 (((c.toNat >>> 8) ^^^ b.toNat) &&& 0xFF) := by
  have hmask (n : Nat) : n &&& 0xFF = n % 2 ^ 8 := Nat.and_two_pow_sub_one_eq_mod n 8
  apply BitVec.eq_of_toNat_eq
  rw [BitVec.toNat_xor, BitVec.toNat_ofNat, hmask, Nat.mod_mod, Nat.xor_mod_two_pow, Nat.mod_eq_of_lt b.isLt, hiByte,
    BitVec.toNat_setWidth, BitVec.toNat_ushiftRight]

/-- R131 on naturals: `u16` of the exclusive-or drops the bits past bit 15. -/
theorem crcStep_toNat (c : Half) (b : Byte) :
    (crcStep c b).toNat =
      ((crcTab (BitVec.ofNat 8 (((c.toNat >>> 8) ^^^ b.toNat) &&& 0xFF))).toNat ^^^ (c.toNat <<< 8)) % 65536 := by
  rw [← hiByte_xor_eq_ofNat]
  calc (crcStep c b).toNat
      = (crcTab (hiByte c ^^^ b)).toNat ^^^ (c.toNat <<< 8) % 2 ^ 16 := by
        rw [crcStep, BitVec.toNat_xor, BitVec.toNat_shiftLeft]
    _ = (crcTab (hiByte c ^^^ b)).toNat % 2 ^ 16 ^^^ (c.toNat <<< 8) % 2 ^ 16 := by
        rw [Nat.mod_eq_of_lt (crcTab _).isLt]
    _ = ((crcTab (hiByte c ^^^ b)).toNat ^^^ (c.toNat <<< 8)) % 2 ^ 16 := Nat.xor_mod_two_pow.symm

/-- Settles O4: the new value is `crcStep`, and `crcStep_toNat` reads it as the formula. -/
theorem crcByteSteps : Obligations.CrcByteSteps :=
  ⟨fun b => decodeHostOp_encode (i := .crcByte b) rfl,
    fun b s => ⟨crcStep s.crc b, exec_crcByte b s, crcStep_toNat s.crc b⟩⟩

/-- An event that answers a next state, and the rest of the run from there. -/
theorem runEvents_cons_of_next {e : Event} {s t : State} (h : runEvent e s = .next t) (es : List Event) :
    runEvents (e :: es) s = runEvents es t := by
  rw [runEvents, h, andThen]

/-- The operand bytes fold into `CRC`, whatever it holds, and CRC_READ returns what they leave. -/
theorem runEvents_crcBytes_crcRead (bytes : List Byte) (s : State) :
    runEvents ((bytes.map fun b => messageOf (.crcByte b)) ++ [messageOf .crcRead]) s =
      .next { s with crc := bytes.foldl crcStep s.crc, answer := .crcValue (bytes.foldl crcStep s.crc) } := by
  induction bytes generalizing s with
  | nil => exact runEvents_cons_of_next ((runEvent_messageOf rfl s).trans (exec_crcRead s)) []
  | cons b bytes ih =>
    rw [List.map_cons, List.cons_append,
      runEvents_cons_of_next ((runEvent_messageOf rfl s).trans (exec_crcByte b s)), ih, List.foldl_cons]

/-- Settles O6: the fold of `crc_step` from `0x0000` is `crc16`. -/
theorem crcSequenceComputesChecksum : Obligations.CrcSequenceComputesChecksum := by
  intro bytes s
  rw [List.cons_append, runEvents_cons_of_next ((runEvent_messageOf rfl s).trans (exec_crcInit s)),
    runEvents_crcBytes_crcRead]
  rfl

end Sys2Proof.Machine
end

section
/-! Statements of spec/41_framer.md: the frame `encode(p)` (R150, R151), TX_FRAME (R152), the framer's steps (R154, R156), and what
the line carries while a frame is sent (R157), put together from runs that follow one another. -/

namespace Sys2Proof.Machine

/-! ### The reference function (R150, R151) -/

/-- The frame of R92 and R150, byte by byte. -/
theorem encodeFrame_eq_append (p : List Byte) :
    encodeFrame p =
      [0x02, BitVec.ofNat 8 p.length] ++ p ++ [(crc16 p >>> 8).setWidth 8, (crc16 p).setWidth 8] ++ [0x03] := rfl

/-- Settles O15: the bound of `encodePayload` is 255, and below it the frame is `encodeFrame`. -/
theorem encodeIsTheShortFrame : Obligations.EncodeIsTheShortFrame := fun p =>
  ⟨fun hfits => (if_pos hfits).trans (congrArg some (encodeFrame_eq_append p)), fun hlong => if_neg (Nat.not_le.2 hlong)⟩

theorem encodeFrame_last (p : List Byte) : (encodeFrame p)[p.length + 4]? = some Config.endMark :=
  frameBytes_getElem p (crc16 p) 2

/-- The payload is a slice of its frame (R151 (b)). -/
theorem encodeFrame_slice (p : List Byte) : ((encodeFrame p).drop 2).take p.length = p := by
  rw [encodeFrame, frameBytes_drop, List.take_left]

/-- The length of a frame gives the payload's, and then the slice gives the payload. -/
theorem encodeFrame_injective : Function.Injective encodeFrame := fun p q h => by
  have hlength : p.length = q.length := by
    have := congrArg List.length h
    rwa [encodeFrame_length, encodeFrame_length, Nat.add_right_cancel_iff] at this
  calc p = ((encodeFrame p).drop 2).take p.length := (encodeFrame_slice p).symm
    _ = ((encodeFrame q).drop 2).take q.length := by rw [h, hlength]
    _ = q := encodeFrame_slice q

/-- Settles O16: the fields of the frame, and injectivity from the payload slice. -/
theorem encodeFacts : Obligations.EncodeFacts :=
  ⟨fun p _ => ⟨encodeFrame_length p, rfl, rfl, encodeFrame_last p, encodeFrame_slice p⟩,
    fun _ _ _ _ h => encodeFrame_injective h, rfl⟩

/-! ### TX_FRAME (R152) -/

section
variable {p : List Byte} {s : State}

theorem exec_txFrame_of_long (hlong : Config.maxPayload < p.length) :
    exec (.txFrame p) s = .next { s with answer := .status .unsupportedFrame } := by
  obtain ⟨-, hsend⟩ | ⟨hfits, -⟩ | ⟨hfits, -⟩ := sendFrame_cases p s
  · exact hsend
  · exact absurd hlong (Nat.not_lt.2 hfits)
  · exact absurd hlong (Nat.not_lt.2 hfits)

theorem exec_txFrame_of_sending (hfits : p.length ≤ Config.maxPayload) (hbusy : s.txstate = .sending) :
    exec (.txFrame p) s = .next { s with answer := .status .transportError } := by
  obtain ⟨hlong, -⟩ | ⟨-, -, hsend⟩ | ⟨-, hidle, -⟩ := sendFrame_cases p s
  · exact absurd hlong (Nat.not_lt.2 hfits)
  · exact hsend
  · rw [hbusy] at hidle
    cases hidle

theorem exec_txFrame_of_idle (hfits : p.length ≤ Config.maxPayload) (hidle : s.txstate = .idle) :
    exec (.txFrame p) s =
      .next { s with txframe := Memory.holding (encodeFrame p), txtotal := frameTotal p.length, txpos := 0,
                     txstate := .sending, answer := .status .ok } := by
  obtain ⟨hlong, -⟩ | ⟨-, hbusy, -⟩ | ⟨-, -, hsend⟩ := sendFrame_cases p s
  · exact absurd hlong (Nat.not_lt.2 hfits)
  · rw [hidle] at hbusy
    cases hbusy
  · exact hsend

end

/-- Settles O22: the three outcomes are the three branches of `sendFrame_cases`, and the buffer reads as the frame. -/
theorem txFrameOutcomes : Obligations.TxFrameOutcomes :=
  ⟨fun p => decodeHostOp_encode (i := .txFrame p) rfl, fun p _ =>
    ⟨exec_txFrame_of_long, exec_txFrame_of_sending, fun hfits hidle =>
      ⟨Memory.holding (encodeFrame p), exec_txFrame_of_idle hfits hidle, Memory.read_holding (encodeFrame p)⟩⟩⟩

/-! ### The framer's steps (R154, R156) -/

theorem txEmit_of_enabled {s : State} {b : Byte} (henabled : txEmitEnabled s = true)
    (hread : s.txframe.read s.txpos.toNat = some b) :
    txEmit s = .next { s with utxsr := charWord b, utxn := 10, txpos := s.txpos + 1 } := by
  obtain ⟨hdisabled, -⟩ | ⟨-, c, hc, hemit⟩ | ⟨-, hnone, -⟩ := txEmit_cases s
  · rw [henabled] at hdisabled
    cases hdisabled
  · obtain rfl : b = c := Option.some.inj (hread.symm.trans hc)
    exact hemit
  · rw [hread] at hnone
    cases hnone

theorem txFinish_of_enabled {s : State} (henabled : txFinishEnabled s = true) :
    txFinish s = .next { s with txstate := .idle } :=
  if_pos henabled

/-- Settles O24: the word loaded is the character of R91. -/
theorem txEmitLoadsCharacter : Obligations.TxEmitLoadsCharacter := fun s b hsending hleft hquiet hread =>
  ⟨charWord b, txEmit_of_enabled ((txEmitEnabled_iff s).2 ⟨hsending, hleft, hquiet⟩) hread,
    charWord_getLsbD_nine b, charWord_getLsbD_zero b, fun _ hk => charWord_getLsbD_succ b hk⟩

/-- Settles O25: the three conditions are those of `txFinishEnabled_iff`. -/
theorem txFinishEndsFrame : Obligations.TxFinishEndsFrame := fun s hsending hend hquiet =>
  txFinish_of_enabled ((txFinishEnabled_iff s).2 ⟨hsending, hend, hquiet⟩)

/-! ### Runs of the transmit path: where they lead and what the line carries over them -/

theorem SameReceive.trans {s t u : State} (h : SameReceive s t) (h' : SameReceive t u) : SameReceive s u where
  result := h.result.trans h'.result
  urxsr := h'.urxsr.trans h.urxsr
  urxn := h'.urxn.trans h.urxn
  rxfifo := h'.rxfifo.trans h.rxfifo
  ferr := h'.ferr.trans h.ferr
  ovr := h'.ovr.trans h.ovr
  rxcnt := h'.rxcnt.trans h.rxcnt
  rxtotal := h'.rxtotal.trans h.rxtotal
  rxtimer := h'.rxtimer.trans h.rxtimer

theorem runEvents_append {es : List Event} {s t : State} (h : runEvents es s = .next t) (fs : List Event) :
    runEvents (es ++ fs) s = runEvents fs t := by
  induction es generalizing s with
  | nil => cases h; rfl
  | cons e es ih =>
    obtain ⟨u, he, hrest⟩ := (andThen_next_iff _ _ _).1 h
    exact (runEvents_cons_of_next he (es ++ fs)).trans (ih hrest)

theorem lineOf_append {es : List Event} {s t : State} (h : runEvents es s = .next t) (fs : List Event) :
    lineOf (es ++ fs) s = lineOf es s ++ lineOf fs t := by
  induction es generalizing s with
  | nil => cases h; rfl
  | cons e es ih =>
    obtain ⟨u, he, hrest⟩ := (andThen_next_iff _ _ _).1 h
    simp only [List.cons_append, lineOf, he, ih hrest]
    split <;> rfl

/-- The events `es` lead from `s` to `t`, drive `levels` on the line, and leave the receive path alone. -/
structure Drives (es : List Event) (s : State) (levels : List Bool) (t : State) : Prop where
  run : runEvents es s = .next t
  line : lineOf es s = levels
  receive : SameReceive s t

theorem Drives.append {es fs : List Event} {s t u : State} {levels more : List Bool} (h : Drives es s levels t)
    (h' : Drives fs t more u) : Drives (es ++ fs) s (levels ++ more) u where
  run := (runEvents_append h.run fs).trans h'.run
  line := by rw [lineOf_append h.run fs, h.line, h'.line]
  receive := h.receive.trans h'.receive

theorem drives_utxBit (s : State) : Drives [.utxBit] s [(utxBit s).txd] (utxBit s) :=
  ⟨rfl, rfl, utxBit_sameReceive s⟩

/-- An event that is no bit time of `txd` drives nothing. -/
theorem drives_nothing {e : Event} {s t : State} (he : e ≠ .utxBit) (hrun : runEvent e s = .next t)
    (hreceive : SameReceive s t) : Drives [e] s [] t :=
  ⟨runEvents_cons_of_next hrun [], by simp only [lineOf, hrun, if_neg he], hreceive⟩

theorem drives_txEmit {s t : State} (h : txEmit s = .next t) : Drives [.txEmit] s [] t :=
  drives_nothing (e := .txEmit) nofun h (txEmit_sameReceive h)

theorem drives_txFinish {s t : State} (h : txFinish s = .next t) : Drives [.txFinish] s [] t :=
  drives_nothing (e := .txFinish) nofun h (txFinish_sameReceive h)

/-- Between characters the line is at 1 (R214, R216). -/
theorem drives_idle (n : Nat) {s : State} (hquiet : s.utxn = 0) :
    ∃ level, Drives (List.replicate n .utxBit) s (List.replicate n true) { s with txd := level } := by
  induction n generalizing s with
  | zero => exact ⟨s.txd, rfl, rfl, sameReceive_update⟩
  | succ n ih =>
    obtain ⟨level, hrest⟩ := ih (s := { s with txd := true }) hquiet
    have hbit : utxBit s = { s with txd := true } := if_pos hquiet
    have hfirst := drives_utxBit s
    rw [hbit] at hfirst
    exact ⟨level, hfirst.append hrest⟩

/-- A loaded character goes out in ten bit times (R91, R214). -/
theorem drives_character (b : Byte) {s : State} (hload : s.utxsr = charWord b) (hbits : s.utxn = 10) :
    Drives (List.replicate 10 .utxBit) s (charLevels b) { s with utxsr := 0x3FF, utxn := 0, txd := true } := by
  obtain ⟨hline, hrun⟩ := tenBitsDriveCharacter b s hload hbits
  exact ⟨hrun, hline, sameReceive_update⟩

/-! ### A frame is sent byte by byte (R155, R157) -/

/-- The framer has exactly these bytes left to hand over, and no character is going out. -/
structure Unsent (bytes : List Byte) (s : State) : Prop where
  sending : s.txstate = .sending
  quiet : s.utxn = 0
  left : s.txpos.toNat + bytes.length = s.txtotal.toNat
  held : ∀ i, s.txframe.read (s.txpos.toNat + i) = bytes[i]?

/-- An accepted TX_FRAME has the whole frame to hand over (R152). -/
theorem unsent_of_accepted {p : List Byte} {s t : State} (hfits : p.length ≤ Config.maxPayload) (hidle : s.txstate = .idle)
    (hquiet : s.utxn = 0) (h : exec (.txFrame p) s = .next t) : Unsent (encodeFrame p) t := by
  rw [exec_txFrame_of_idle hfits hidle] at h
  cases h
  refine ⟨rfl, hquiet, ?_, fun i => ?_⟩
  · change 0 + (encodeFrame p).length = (frameTotal p.length).toNat
    rw [Nat.zero_add, encodeFrame_length, frameTotal_toNat _ hfits]
  · change (Memory.holding (encodeFrame p)).read (0 + i) = _
    rw [Nat.zero_add, Memory.read_holding]

/-- Idle bit times, TX_EMIT and ten bit times send one byte (R154, R157). -/
theorem Unsent.drives_byteSchedule {b : Byte} {bytes : List Byte} {s : State} (h : Unsent (b :: bytes) s) (gap : Nat) :
    ∃ t, Drives (byteSchedule gap) s (List.replicate gap true ++ charLevels b) t ∧ Unsent bytes t := by
  obtain ⟨hsending, hquiet, hleft, hheld⟩ := h
  rw [List.length_cons] at hleft
  have hmore : s.txpos < s.txtotal := by rw [BitVec.lt_def]; omega
  have hnext : (s.txpos + 1).toNat = s.txpos.toNat + 1 := by bv_omega
  obtain ⟨level, hgap⟩ := drives_idle gap hquiet
  have hemit : txEmit { s with txd := level } =
      .next { s with txd := level, utxsr := charWord b, utxn := 10, txpos := s.txpos + 1 } :=
    txEmit_of_enabled ((txEmitEnabled_iff _).2 ⟨hsending, hmore, hquiet⟩) (hheld 0)
  refine ⟨_, hgap.append ((drives_txEmit hemit).append (drives_character b rfl rfl)),
    hsending, rfl, ?_, fun i => ?_⟩
  · change (s.txpos + 1).toNat + bytes.length = s.txtotal.toNat
    omega
  · change s.txframe.read ((s.txpos + 1).toNat + i) = _
    rw [hnext, Nat.add_assoc, Nat.add_comm 1 i, hheld (i + 1), List.getElem?_cons_succ]

theorem Unsent.drives_bytes {bytes : List Byte} {gaps : List Nat} {s : State} (h : Unsent bytes s)
    (hgaps : gaps.length = bytes.length) :
    ∃ t, Drives (gaps.flatMap byteSchedule) s
        ((List.zip gaps bytes).flatMap fun g => List.replicate g.1 true ++ charLevels g.2) t ∧ Unsent [] t := by
  induction bytes generalizing gaps s with
  | nil =>
    obtain rfl := List.length_eq_zero_iff.1 hgaps
    exact ⟨s, ⟨rfl, rfl, sameReceive_update⟩, h⟩
  | cons b bytes ih =>
    obtain ⟨gap, gaps, rfl⟩ := List.exists_cons_of_length_eq_add_one hgaps
    obtain ⟨t, hbyte, hrest⟩ := h.drives_byteSchedule gap
    obtain ⟨u, hbytes, hdone⟩ := ih hrest (Nat.succ.inj hgaps)
    refine ⟨u, ?_, hdone⟩
    rw [List.flatMap_cons, List.zip_cons_cons, List.flatMap_cons]
    exact hbyte.append hbytes

/-- With every byte sent, idle bit times and TX_FINISH end the frame (R156). -/
theorem Unsent.drives_finish {s : State} (h : Unsent [] s) (after : Nat) :
    ∃ t, Drives (List.replicate after .utxBit ++ [.txFinish]) s (List.replicate after true) t ∧
      t.txstate = .idle ∧ t.utxn = 0 ∧ t.txpos = t.txtotal := by
  obtain ⟨hsending, hquiet, hleft, -⟩ := h
  have hend : s.txpos = s.txtotal := BitVec.eq_of_toNat_eq hleft
  obtain ⟨level, hidle⟩ := drives_idle after hquiet
  have hfinish : txFinish { s with txd := level } = .next { s with txd := level, txstate := .idle } :=
    txFinish_of_enabled ((txFinishEnabled_iff _).2 ⟨hsending, hend, hquiet⟩)
  have hall := hidle.append (drives_txFinish hfinish)
  rw [List.append_nil] at hall
  exact ⟨_, hall, rfl, hquiet, hend⟩

/-- Settles O29: the bytes of the accepted frame go out one by one, by induction on them, and then TX_FINISH is enabled. -/
theorem lineCarriesTheFrame : Obligations.LineCarriesTheFrame := by
  intro p gaps after s s1 hfits hidle hquiet haccepted hgaps
  have hframe := unsent_of_accepted hfits hidle hquiet haccepted
  obtain ⟨u, hbytes, hsent⟩ := hframe.drives_bytes (hgaps.trans (encodeFrame_length p).symm)
  obtain ⟨t, hfinish, hstate, hbits, hpos⟩ := hsent.drives_finish after
  have haccept : SameReceive s s1 := sendFrame_sameReceive haccepted
  obtain ⟨hrun, hline, hreceive⟩ := hbytes.append hfinish
  rw [← List.append_assoc] at hrun hline
  exact ⟨hline, t, hrun, hstate, hbits, hpos, haccept.trans hreceive⟩

end Sys2Proof.Machine
end

section
/-! Statements of spec/42_deframer.md: the reference function `decode` on encoded and damaged frames (R171, R189), the deframer's
operations and steps (R172 to R184), that every receive operation ends (R173), and that the deframer follows `decode` (R188). -/

namespace Sys2Proof.Machine

/-! ### The reference function `decode` on encoded frames (R171, R189) -/

theorem frameBytes_eq_cons (payload : List Byte) (crc : Half) :
    frameBytes payload crc =
      Config.startShort :: lenByte payload.length :: (payload ++ [hiByte crc, loByte crc, Config.endMark]) := by
  simp [frameBytes, be16]

/-- A short frame of which not all declared bytes are there (R171 (3)). -/
theorem decodeStream_of_incomplete {len : Byte} {r : List Byte} (h : r.length + 2 < len.toNat + 5) :
    decodeStream (Config.startShort :: len :: r) = (.timeout, r.length + 2) := by
  rw [decodeStream_cons_cons, if_neg (not_not.2 rfl)]
  exact if_pos h

/-- Settles O17: a whole frame is consumed, and one byte short the declared total is not reached. -/
theorem decodeOfEncodedFrame : Obligations.DecodeOfEncodedFrame := by
  intro p rest hlen
  have htake : (encodeFrame p).take (p.length + 4) =
      Config.startShort :: lenByte p.length :: (p ++ [hiByte (crc16 p), loByte (crc16 p)]) := by
    simp [encodeFrame, frameBytes_eq_cons, List.take_append]
  constructor
  · exact (decodeStream_frameBytes_append (crc16 p) rest hlen).trans (by rw [if_pos rfl])
  · have hshort : (p ++ [hiByte (crc16 p), loByte (crc16 p)]).length = p.length + 2 := List.length_append
    rw [htake, decodeStream_of_incomplete (by rw [hshort, lenByte_toNat _ hlen]; omega), hshort]

/-! A flipped bit, followed to the field of the frame it stands in. -/

section
variable (a b : List Byte) (x : Byte) (k : Nat)

theorem length_flipBit (i : Nat) : (flipBit a i k).length = a.length := List.length_set

theorem flipBit_cons_succ (i : Nat) : flipBit (x :: a) (i + 1) k = x :: flipBit a i k := rfl

theorem flipBit_append_left {i : Nat} (h : i < a.length) : flipBit (a ++ b) i k = flipBit a i k ++ b := by
  rw [flipBit, flipBit, List.getD_append _ _ _ _ h, List.set_append_left _ _ h]

theorem flipBit_append_right (i : Nat) : flipBit (a ++ b) (a.length + i) k = a ++ flipBit b i k := by
  induction a with
  | nil => rw [List.nil_append, List.length_nil, Nat.zero_add]; rfl
  | cons y a ih =>
    rw [List.length_cons, Nat.add_right_comm, List.cons_append, flipBit_cons_succ, ih]
    rfl

end

theorem flipBit_frameBytes_payload {p : List Byte} (crc : Half) {i : Nat} (hi : i < p.length) (k : Nat) :
    flipBit (frameBytes p crc) (i + 2) k = frameBytes (flipBit p i k) crc := by
  rw [frameBytes_eq_cons, frameBytes_eq_cons, length_flipBit, flipBit_cons_succ, flipBit_cons_succ,
    flipBit_append_left _ _ _ hi]

/-- From the checksum field on, the bit is flipped in one of the last three bytes. -/
theorem flipBit_frameBytes_tail (p : List Byte) (crc : Half) (i k : Nat) :
    flipBit (frameBytes p crc) (p.length + i + 2) k =
      Config.startShort :: lenByte p.length :: (p ++ flipBit [hiByte crc, loByte crc, Config.endMark] i k) := by
  rw [frameBytes_eq_cons, flipBit_cons_succ, flipBit_cons_succ, flipBit_append_right]

/-- A bit flipped in the checksum field gives a frame with another checksum field. -/
theorem exists_flipBit_frameBytes_checksum (p : List Byte) (crc : Half) {i k : Nat} (hi : i < 2) (hk : k < 8) :
    ∃ c : Half, c ≠ crc ∧ flipBit (frameBytes p crc) (p.length + i + 2) k = frameBytes p c := by
  rw [flipBit_frameBytes_tail]
  obtain rfl | rfl : i = 0 ∨ i = 1 := by omega
  · refine ⟨halfOf (hiByte crc ^^^ (1#8 <<< k)) (loByte crc), fun h => xor_oneBit_ne (hiByte crc) hk ?_, ?_⟩
    · rw [← hiByte_halfOf (hiByte crc ^^^ _) (loByte crc), h]
    · rw [frameBytes_eq_cons, hiByte_halfOf, loByte_halfOf]
      rfl
  · refine ⟨halfOf (hiByte crc) (loByte crc ^^^ (1#8 <<< k)), fun h => xor_oneBit_ne (loByte crc) hk ?_, ?_⟩
    · rw [← loByte_halfOf (hiByte crc) (loByte crc ^^^ _), h]
    · rw [frameBytes_eq_cons, hiByte_halfOf, loByte_halfOf]
      rfl

theorem decodeStream_of_wrong_checksum {p : List Byte} {crc : Half} (hlen : p.length ≤ Config.maxPayload)
    (hne : crc16 p ≠ crc) :
    decodeStream (frameBytes p crc) = (.checksumMismatch (crc16 p) crc, p.length + 5) := by
  have h := decodeStream_frameBytes_append crc [] hlen
  rwa [List.append_nil, if_neg hne] at h

/-- Settles O18: a flipped payload bit changes the computed checksum, a flipped bit of the field the received one. -/
theorem flippedBitIsRejected : Obligations.FlippedBitIsRejected := by
  intro p i k hlen hi hend hk
  obtain ⟨j, rfl⟩ := Nat.exists_eq_add_of_le' hi
  obtain hpayload | hfield := Nat.lt_or_ge j p.length
  · have hlength := length_flipBit p k j
    have hne := singleBitChangesChecksum p j k hpayload hk
    refine ⟨crc16 (flipBit p j k), crc16 p, hne, ?_⟩
    rw [encodeFrame, flipBit_frameBytes_payload _ hpayload, decodeStream_of_wrong_checksum (hlength ▸ hlen) hne, hlength]
  · obtain ⟨m, rfl⟩ := Nat.exists_eq_add_of_le hfield
    obtain ⟨c, hne, hflip⟩ := exists_flipBit_frameBytes_checksum p (crc16 p) (i := m) (by omega) hk
    exact ⟨crc16 p, c, hne.symm, by rw [encodeFrame, hflip, decodeStream_of_wrong_checksum hlen hne.symm]⟩

/-- `check_frame(f)` with the payload length given instead of read from `f[1]` (R170). -/
def judge (n : Nat) (f : List Byte) : Verdict :=
  let payload := (f.drop 2).take n
  let received := halfOf (f.getD (n + 2) 0) (f.getD (n + 3) 0)
  if f.getD (n + 4) 0 ≠ Config.endMark then .malformedLength
  else if crc16 payload ≠ received then .checksumMismatch (crc16 payload) received
  else .ok payload

theorem checkFrame_eq_judge (f : List Byte) : checkFrame f = judge (f.getD 1 0).toNat f := rfl

/-- The end marker is tested before the checksum (R170). -/
theorem judge_of_wrong_end {n : Nat} {f : List Byte} (h : f.getD (n + 4) 0 ≠ Config.endMark) :
    judge n f = .malformedLength := if_pos h

/-- The verdict over the fields that follow the header (R170). -/
theorem judge_of_fields {f p : List Byte} {hi lo last : Byte} (h : f.drop 2 = p ++ [hi, lo, last]) :
    judge p.length f =
      if last ≠ Config.endMark then .malformedLength
      else if crc16 p ≠ halfOf hi lo then .checksumMismatch (crc16 p) (halfOf hi lo)
      else .ok p := by
  have hfield (k : Nat) : f.getD (p.length + k + 2) 0 = [hi, lo, last].getD k 0 := by
    rw [List.getD_eq_getElem?_getD, Nat.add_comm, ← List.getElem?_drop, h, List.getElem?_append_right (Nat.le_add_right _ _),
      Nat.add_sub_cancel_left, List.getD_eq_getElem?_getD]
  have hhi : f.getD (p.length + 2) 0 = hi := hfield 0
  have hlo : f.getD (p.length + 3) 0 = lo := hfield 1
  have hend : f.getD (p.length + 4) 0 = last := hfield 2
  simp only [judge, h, hhi, hlo, hend, List.take_left]

theorem decodeStream_of_wrong_end {p : List Byte} (hi lo : Byte) {last : Byte} (hlen : p.length ≤ Config.maxPayload)
    (hlast : last ≠ Config.endMark) :
    decodeStream (Config.startShort :: lenByte p.length :: (p ++ [hi, lo, last])) = (.malformedLength, p.length + 5) := by
  obtain ⟨f, hf⟩ : ∃ f, f = Config.startShort :: lenByte p.length :: (p ++ [hi, lo, last]) := ⟨_, rfl⟩
  have hwhole : f.length = p.length + 5 := by simp [hf]
  have hlenByte : f.getD 1 0 = lenByte p.length := by rw [hf]; rfl
  have hverdict : checkFrame f = .malformedLength := by
    rw [checkFrame_eq_judge, hlenByte, lenByte_toNat _ hlen, judge_of_fields (hf ▸ rfl : f.drop 2 = p ++ [hi, lo, last]),
      if_pos hlast]
  rw [decodeStream_cons_cons, ← hf, if_neg (not_not.2 rfl), lenByte_toNat _ hlen, hwhole, if_neg (Nat.lt_irrefl _),
    ← hwhole, List.take_length, hverdict]

/-- Settles O19: a flipped marker is another byte. -/
theorem flippedMarkerIsRejected : Obligations.FlippedMarkerIsRejected := by
  intro p k hlen hk
  constructor
  · exact (congrArg decodeStream (flipBit_frameBytes_tail p (crc16 p) 2 k)).trans
      (decodeStream_of_wrong_end _ _ hlen (xor_oneBit_ne Config.endMark hk))
  · exact if_pos (xor_oneBit_ne Config.startShort hk)

/-! ### RX_START and RX_READ (R172, R184) -/

/-- Settles O33: the two branches of RX_START, and an empty buffer holds no value. -/
theorem rxStartOutcomes : Obligations.RxStartOutcomes :=
  ⟨decodeHostOp_encode (i := .rxStart) rfl, fun _ =>
    ⟨fun hbusy => if_pos hbusy, fun hfree => ⟨[], fun _ => rfl, if_neg hfree⟩⟩⟩

section
variable {s : State}

theorem exec_rxRead_of_not_done (hs : s.rxstate ≠ .done) :
    exec .rxRead s = .next { s with answer := .receive (.stateOnly s.rxstate) } :=
  if_pos hs

theorem exec_rxRead_of_done (hs : s.rxstate = .done) :
    exec .rxRead s =
      if s.rxerr = .ok then
        orFault (payloadSlice s) fun payload => .next (reply (.receive (.okPayload payload s.crccalc s.crcrecv)) s)
      else if s.rxerr = .checksumMismatch then .next (reply (.receive (.mismatch s.crccalc s.crcrecv)) s)
      else .next (reply (.receive (.failed s.rxerr)) s) :=
  if_neg (not_not.2 hs)

theorem exec_rxRead_of_ok {p : List Byte} (hs : s.rxstate = .done) (hok : s.rxerr = .ok) (hslice : payloadSlice s = .ok p) :
    exec .rxRead s = .next { s with answer := .receive (.okPayload p s.crccalc s.crcrecv) } := by
  rw [exec_rxRead_of_done hs, if_pos hok, hslice]
  rfl

end

/-- Settles O34: the branches of RX_READ. -/
theorem rxReadOutcomes : Obligations.RxReadOutcomes := by
  refine ⟨decodeHostOp_encode (i := .rxRead) rfl, fun s => ⟨exec_rxRead_of_not_done, fun p => exec_rxRead_of_ok,
    fun hs hmismatch => ?_, fun hs hok hmismatch => ?_⟩⟩
  · rw [exec_rxRead_of_done hs, if_neg (by rw [hmismatch]; exact nofun), if_pos hmismatch]
    rfl
  · rw [exec_rxRead_of_done hs, if_neg hok, if_neg hmismatch]
    rfl

/-- The payload slice of a buffer that holds the frame of a payload is the payload (R151 (b), R184). -/
theorem payloadSlice_of_frame {s : State} {p : List Byte} (hlen : p.length = s.rxlen.toNat)
    (hbuf : s.rxbuf = Memory.holding (encodeFrame p)) : payloadSlice s = .ok p := by
  rw [payloadSlice, hbuf, ← hlen, memRead_holding _ _ _ (by rw [encodeFrame_length]; omega), encodeFrame_slice]

/-- Settles O35: after `OK` the buffer holds a frame, so the payload slice is its payload and both checksums are its own. -/
theorem rxReadCompletes : Obligations.RxReadCompletes := by
  intro s hinv
  constructor
  · obtain ⟨t, hread⟩ := execRxRead_answers hinv.rx
    obtain ⟨r, rfl⟩ := execRxRead_next s t hread
    exact ⟨r, hread⟩
  · intro hs hok
    have hdone := hinv.rx.done_ok hs hok
    obtain ⟨p, hlen, hbuf⟩ := hdone.frame
    obtain ⟨hcount, htotal⟩ := hdone.count
    obtain ⟨q, hq, hcalc, hrecv⟩ := hdone.checksum
    have hslice := payloadSlice_of_frame hlen hbuf
    obtain rfl : p = q := Except.ok.inj (hslice.symm.trans hq)
    refine ⟨p, hlen, hbuf, ?_, ?_⟩
    · rw [hcount, htotal, declaredTotal_toNat, encodeFrame_length, hlen]
    · rw [exec_rxRead_of_ok hs hok hslice, hrecv, hcalc]

/-! ### RX_LINKERR (R174) -/

/-- Settles O37: the step is enabled, and the invariant has the checksums at zero while receiving. -/
theorem rxLinkErrRaises : Obligations.RxLinkErrRaises := fun s hs herr =>
  ⟨if_pos ((rxLinkErrEnabled_iff s).2 ⟨hs, herr⟩), fun hinv => (hinv.rx.receiving hs).crcs_zero⟩

/-! ### RX_TICK (R180, R182) -/

section
variable {s : State}

/-- A tick waits under `pop_first` only, and only for a byte that can be popped (R182). -/
theorem tickHeldBack_iff : tickHeldBack s = true ↔ rxPopReady s = true ∧ Config.rxTickOrder = .popFirst := by
  simp [tickHeldBack]

theorem tickHeldBack_eq_false (h : Config.rxTickOrder ≠ .popFirst ∨ s.rxfifo = [] ∨ s.rxstate ≠ .receiving) :
    tickHeldBack s = false := by
  rw [← Bool.not_eq_true, tickHeldBack_iff, rxPopReady_iff]
  rintro ⟨⟨hs, hqueue, -⟩, horder⟩
  obtain h | h | h := h
  · exact h horder
  · exact hqueue h
  · exact h hs

theorem rxTick_of_free (h : tickHeldBack s = false) : rxTick s = .next { countTick s with tickDue := false } :=
  if_neg (Bool.not_eq_true _ ▸ h)

theorem countTick_of_not_receiving (hs : s.rxstate ≠ .receiving) : countTick s = s := if_neg hs

theorem countTick_before_last (hs : s.rxstate = .receiving) (htimer : s.rxtimer ≠ 99) :
    countTick s = { s with rxtimer := s.rxtimer + 1 } := by
  have hbefore : s.rxtimer + 1 ≠ Config.rxTimeout := by
    simp only [Config.rxTimeout]
    bv_omega
  rw [countTick, if_pos hs, if_neg hbefore]

theorem countTick_last (hs : s.rxstate = .receiving) (htimer : s.rxtimer = 99) :
    countTick s = { s with rxtimer := 100, rxerr := .timeout, rxstate := .done } := by
  have hlast : s.rxtimer + 1 = Config.rxTimeout := by rw [htimer]; rfl
  rw [countTick, if_pos hs, if_pos hlast, hlast]
  rfl

/-- A counted tick of a receive operation advances the timer, the last one too (R180). -/
theorem countTick_rxtimer (hs : s.rxstate = .receiving) : (countTick s).rxtimer = s.rxtimer + 1 := by
  obtain ⟨hne, -⟩ | ⟨-, -, h⟩ | ⟨-, -, h⟩ := countTick_cases s
  · exact absurd hs hne
  · rw [h]; rfl
  · rw [h]

end

/-- Settles O40: a tick that is not held back is counted. -/
theorem rxTickOutcomes : Obligations.RxTickOutcomes := by
  intro s hfree
  have htick : runEvent .rxTick s = .next { countTick s with tickDue := false } :=
    rxTick_of_free (tickHeldBack_eq_false hfree)
  refine ⟨fun hs => ?_, fun hs htimer => ?_, fun hs htimer => ?_⟩
  · rw [htick, countTick_of_not_receiving hs]
  · rw [htick, countTick_before_last hs htimer]
  · rw [htick, countTick_last hs htimer]

/-! ### Runs of ticks (R180) -/

/-- The state in which a tick has been counted and the timer shows `n` (R180, log entry 15). -/
def timerAt (n : BitVec 7) (s : State) : State := { s with rxtimer := n, tickDue := false }

/-- The state the 100th tick leaves (R180). -/
def timedOut (s : State) : State := { s with rxtimer := 100, rxerr := .timeout, rxstate := .done, tickDue := false }

/-- In `RX_DONE` ticks go by (R180). -/
theorem runEvents_ticks_of_done {s : State} (k : Nat) (hs : s.rxstate = .done) (hdue : s.tickDue = false) :
    runEvents (List.replicate k .rxTick) s = .next s := by
  have hnot : s.rxstate ≠ .receiving := by rw [hs]; exact nofun
  have htick : runEvent .rxTick s = .next s := by
    rw [(rxTickOutcomes s (.inr (.inr hnot))).1 hnot, ← hdue]
  induction k with
  | zero => rfl
  | succ k ih => rw [List.replicate_succ, runEvents_cons_of_next htick, ih]

section
variable {s : State} (hs : s.rxstate = .receiving) (hfree : Config.rxTickOrder ≠ .popFirst ∨ s.rxfifo = [])
include hs hfree

theorem runEvent_rxTick_before_last (htimer : s.rxtimer ≠ 99) :
    runEvent .rxTick s = .next (timerAt (s.rxtimer + 1) s) :=
  (rxTickOutcomes s (hfree.imp_right .inl)).2.1 hs htimer

theorem runEvent_rxTick_last (htimer : s.rxtimer = 99) : runEvent .rxTick s = .next (timedOut s) :=
  (rxTickOutcomes s (hfree.imp_right .inl)).2.2 hs htimer

/-- Ticks that do not reach the 100th. -/
theorem runEvents_ticks_before_last {k : Nat} (hbefore : s.rxtimer.toNat + (k + 1) < 100) :
    runEvents (List.replicate (k + 1) .rxTick) s = .next (timerAt (BitVec.ofNat 7 (s.rxtimer.toNat + (k + 1))) s) := by
  rw [List.replicate_succ, runEvents_cons_of_next (runEvent_rxTick_before_last hs hfree (by bv_omega))]
  induction k generalizing s with
  | zero =>
    have hnext : s.rxtimer + 1 = BitVec.ofNat 7 (s.rxtimer.toNat + (0 + 1)) := by bv_omega
    rw [hnext]
    rfl
  | succ k ih =>
    obtain ⟨u, hu⟩ : ∃ u, u = timerAt (s.rxtimer + 1) s := ⟨_, rfl⟩
    have hreceiving : u.rxstate = .receiving := hu ▸ hs
    have hquiet : Config.rxTickOrder ≠ .popFirst ∨ u.rxfifo = [] := hu ▸ hfree
    have htimer : u.rxtimer = s.rxtimer + 1 := congrArg State.rxtimer hu
    have hnext : u.rxtimer.toNat + (k + 1) = s.rxtimer.toNat + (k + 1 + 1) := by bv_omega
    rw [← hu, List.replicate_succ,
      runEvents_cons_of_next (runEvent_rxTick_before_last hreceiving hquiet (by bv_omega)),
      ih hreceiving hquiet (hnext ▸ hbefore), hnext, hu]
    rfl

/-- Ticks up to the 100th and after it. -/
theorem runEvents_ticks_past_last {k : Nat} (htimer : s.rxtimer < 100) (hpast : 100 ≤ s.rxtimer.toNat + k) :
    runEvents (List.replicate k .rxTick) s = .next (timedOut s) := by
  induction k generalizing s with
  | zero => bv_omega
  | succ k ih =>
    rw [List.replicate_succ]
    by_cases hlast : s.rxtimer = 99
    · rw [runEvents_cons_of_next (runEvent_rxTick_last hs hfree hlast)]
      exact runEvents_ticks_of_done k rfl rfl
    · have hnext : (timerAt (s.rxtimer + 1) s).rxtimer = s.rxtimer + 1 := rfl
      rw [runEvents_cons_of_next (runEvent_rxTick_before_last hs hfree hlast)]
      exact ih (s := timerAt (s.rxtimer + 1) s) hs hfree (by bv_omega) (by bv_omega)

end

/-- Settles O42: the timer starts at zero, so the 100th tick is the 100th of the run. -/
theorem hundredTicksEndTheOperation : Obligations.HundredTicksEndTheOperation := by
  intro s k hs hstart hfree hpos
  obtain ⟨k, rfl⟩ := Nat.exists_eq_add_one_of_ne_zero (Nat.ne_of_gt hpos)
  have hzero : s.rxtimer.toNat = 0 := congrArg BitVec.toNat hstart
  refine ⟨fun hbefore => ?_, fun hpast => ?_⟩
  · rw [runEvents_ticks_before_last hs hfree (by omega), hzero, Nat.zero_add]
    rfl
  · exact runEvents_ticks_past_last hs hfree (by bv_omega) (by omega)

/-! ### RX_POP: the byte is stored, then judged by its position (R176 to R178) -/

section
variable {s t : State} {b : Byte} {q : List Byte}

theorem rxPop_of_enabled (hs : s.rxstate = .receiving) (hqueue : s.rxfifo = b :: q) (hferr : s.ferr = false)
    (hovr : s.ovr = false) (hfree : popHeldBack s = false) : rxPop s = takeByte b { s with rxfifo := q } := by
  have hready : s.rxfifo ≠ [] := by rw [hqueue]; exact List.cons_ne_nil b q
  obtain ⟨hdisabled, -⟩ | ⟨-, c, r, hcons, hpop⟩ := rxPop_cases s
  · rw [(rxPopEnabled_iff s).2 ⟨hs, hready, hferr, hovr, hfree⟩] at hdisabled
    cases hdisabled
  · obtain ⟨rfl, rfl⟩ := List.cons.inj (hqueue.symm.trans hcons)
    exact hpop

/-- Judging a stored byte writes the elements named here and no other (R177, R178). -/
theorem takeByte_updates (h : takeByte b s = .next t) : ∃ rxlen rxtotal rxstate rxerr crccalc crcrecv,
    t = { storeByte b s with rxlen, rxtotal, rxstate, rxerr, crccalc, crcrecv } := by
  obtain ⟨-, ⟨-, hheader⟩ | ⟨-, -, hcomplete⟩ | ⟨-, -, rfl⟩⟩ := takeByte_outcomes h
  · obtain ⟨len, -, -, rfl⟩ | ⟨start, -, -, rfl⟩ := rxHeader_next _ _ hheader <;> exact ⟨_, _, _, _, _, _, rfl⟩
  · obtain ⟨last, -, -, rfl⟩ | ⟨-, payload, received, -, -, ⟨-, rfl⟩ | ⟨-, rfl⟩⟩ := rxComplete_next _ _ hcomplete <;>
      exact ⟨_, _, _, _, _, _, rfl⟩
  · exact ⟨_, _, _, _, _, _, rfl⟩

end

/-- Settles O39: what judging the byte writes is none of what is listed. -/
theorem rxPopStoresOneByte : Obligations.RxPopStoresOneByte := by
  intro s t b q hs hqueue hferr hovr hfree hpop
  rw [runEvent_rxPop, rxPop_of_enabled hs hqueue hferr hovr hfree] at hpop
  obtain ⟨_, _, _, _, _, _, rfl⟩ := takeByte_updates hpop
  exact ⟨rfl, rfl, Memory.read_write_same _ _ _, fun i hi => Memory.read_write_ne _ _ hi, ⟨rfl, rfl, rfl, rfl, rfl, rfl, rfl⟩,
    rfl, rfl, rfl⟩

/-! ### `RX_TICK_ORDER` (R182) -/

theorem popHeldBack_iff (s : State) : popHeldBack s = true ↔ s.tickDue = true ∧ Config.rxTickOrder = .tickFirst := by
  simp [popHeldBack]

section
variable {s : State}

/-- A byte that is ready is popped unless `tick_first` holds it back for a due tick (R182). -/
theorem rxPop_goes (hinv : Inv s) (hready : rxPopReady s = true) (horder : Config.rxTickOrder ≠ .tickFirst) :
    ∃ t, runEvent .rxPop s = .next t ∧ t.rxcnt = s.rxcnt + 1 ∧ t.rxfifo = s.rxfifo.tail := by
  obtain ⟨hs, hqueue, hferr, hovr⟩ := (rxPopReady_iff s).1 hready
  obtain ⟨b, q, hcons⟩ := List.exists_cons_of_ne_nil hqueue
  have hfree : popHeldBack s = false := by
    rw [← Bool.not_eq_true, popHeldBack_iff]
    exact fun h => horder h.2
  obtain ⟨t, hpop⟩ := rxPop_answers hinv.rx
  obtain ⟨hrest, hcount, -⟩ := rxPopStoresOneByte s t b q hs hcons hferr hovr hfree hpop
  exact ⟨t, hpop, hcount, by rw [hrest, hcons, List.tail_cons]⟩

/-- A tick is counted unless `pop_first` holds it back for a byte that is ready (R182). -/
theorem rxTick_goes (hs : s.rxstate = .receiving) (horder : Config.rxTickOrder ≠ .popFirst) :
    ∃ t, runEvent .rxTick s = .next t ∧ t.rxtimer = s.rxtimer + 1 ∧ t.tickDue = false :=
  ⟨_, rxTick_of_free (tickHeldBack_eq_false (.inl horder)), countTick_rxtimer hs, rfl⟩

theorem rxTick_of_heldBack (h : tickHeldBack s = true) : rxTick s = .next s := if_pos h

end

/-- Settles O41: each value of the parameter makes at most one of the two wait. -/
theorem tickOrderDecides : Obligations.TickOrderDecides := by
  intro s hinv hs hqueue hferr hovr hdue
  have hready : rxPopReady s = true := (rxPopReady_iff s).2 ⟨hs, hqueue, hferr, hovr⟩
  intro popGoes tickGoes
  split
  case h_1 horder =>
    exact ⟨rxTick_of_heldBack (tickHeldBack_iff.2 ⟨hready, horder⟩), rxPop_goes hinv hready (by rw [horder]; exact nofun)⟩
  case h_2 horder =>
    have hheld : popHeldBack s = true := (popHeldBack_iff s).2 ⟨hdue, horder⟩
    exact ⟨rxPop_of_not_enabled (by simp [rxPopEnabled, hheld]), rxTick_goes hs (by rw [horder]; exact nofun)⟩
  case h_3 horder =>
    exact ⟨rxPop_goes hinv hready (by rw [horder]; exact nofun), rxTick_goes hs (by rw [horder]; exact nofun)⟩

/-! ### RX_POP on what a buffer has accumulated (R176 to R178) -/

/-- A receive operation ends with a verdict (R178, R268). -/
def concluded : Verdict → State → State
  | .ok p, s => { s with crccalc := crc16 p, crcrecv := crc16 p, rxerr := .ok, rxstate := .done }
  | .timeout, s => raise .timeout none s
  | .unsupportedFrame, s => raise .unsupportedFrame none s
  | .checksumMismatch computed received, s => raise .checksumMismatch (some (computed, received)) s
  | .malformedLength, s => raise .malformedLength none s

/-- The short form is selected with its length byte (R177). -/
def shortForm (len : Byte) (s : State) : State := { s with rxlen := len, rxtotal := declaredTotal len }

theorem rxHeader_of_holding {s : State} {start len : Byte} (hbuf : s.rxbuf = Memory.holding [start, len]) :
    rxHeader s =
      .next (if start = Config.startShort then shortForm len s else concluded .unsupportedFrame s) := by
  have hstart : readByte s.rxbuf 0 = .ok start := by rw [hbuf]; rfl
  have hlen : readByte s.rxbuf 1 = .ok len := by rw [hbuf]; rfl
  rw [rxHeader, hstart, hlen]
  simp only [orFault]
  split <;> rfl

theorem readByte_holding {bs : List Byte} {i : Nat} (h : i < bs.length) :
    readByte (Memory.holding bs) i = .ok (bs.getD i 0) := by
  rw [readByte_ok_iff, Memory.read_holding, List.getElem?_eq_getElem h, List.getD_eq_getElem _ _ h]

/-- The completion step on a buffer that holds all declared bytes is the reference judgement (R170, R178). -/
theorem rxComplete_of_holding {s : State} {bs : List Byte} (hbuf : s.rxbuf = Memory.holding bs)
    (hlen : bs.length = s.rxlen.toNat + 5) (htotal : s.rxtotal.toNat = s.rxlen.toNat + 5) :
    rxComplete s = .next (concluded (judge s.rxlen.toNat bs) s) := by
  obtain ⟨n, hn⟩ : ∃ n, n = s.rxlen.toNat := ⟨_, rfl⟩
  rw [← hn] at hlen htotal ⊢
  have hlast : readByte s.rxbuf (s.rxtotal.toNat - 1) = .ok (bs.getD (n + 4) 0) := by
    rw [hbuf, htotal, Nat.add_sub_assoc (by decide), readByte_holding (by omega)]
  have hslice : payloadSlice s = .ok ((bs.drop 2).take n) := by
    rw [payloadSlice, hbuf, ← hn, memRead_holding _ _ _ (by omega)]
  have hreceived : receivedChecksum s = .ok (halfOf (bs.getD (n + 2) 0) (bs.getD (n + 3) 0)) := by
    simp only [receivedChecksum, hbuf, ← hn, readByte_holding (show n + 2 < bs.length by omega),
      readByte_holding (show n + 3 < bs.length by omega)]
  rw [rxComplete, hlast, hslice, hreceived]
  simp only [orFault, judge]
  split
  · rfl
  · split
    · rename_i hsum
      rw [if_neg (not_not.2 hsum), ← hsum]
      rfl
    · rfl

section
variable {s : State} {f : List Byte} (hcount : f.length = s.rxcnt.toNat)
include hcount

theorem storeByte_of_holding (hbuf : s.rxbuf = Memory.holding f) (b : Byte) :
    storeByte b s = { s with rxbuf := Memory.holding (f ++ [b]), rxcnt := s.rxcnt + 1 } := by
  rw [storeByte, hbuf, ← hcount, Memory.holding_snoc]

variable (hroom : f.length < 260) (b : Byte)
include hroom

theorem takeByte_of_count :
    takeByte b s =
      if f.length = 1 then rxHeader (storeByte b s)
      else if 2 ≤ f.length ∧ s.rxcnt + 1 = s.rxtotal then rxComplete (storeByte b s)
      else .next (storeByte b s) := by
  have hsecond : s.rxcnt + 1 = 2 ↔ f.length = 1 := by bv_omega
  have hthird : 3 ≤ s.rxcnt + 1 ↔ 2 ≤ f.length := by bv_omega
  have hfits : s.rxcnt.toNat + 1 ≤ Config.frameMax := by
    rw [← hcount]
    exact hroom
  simp only [takeByte_of_room b hfits, hsecond, hthird]

/-- A byte that ends neither the header nor the frame is stored. -/
theorem takeByte_of_stored (hsecond : f.length ≠ 1) (hlast : ¬(2 ≤ f.length ∧ s.rxcnt + 1 = s.rxtotal)) :
    takeByte b s = .next (storeByte b s) := by
  rw [takeByte_of_count hcount hroom, if_neg hsecond, if_neg hlast]

/-- The second byte selects the form (R177). -/
theorem takeByte_of_header {start : Byte} (hbuf : s.rxbuf = Memory.holding f) (hf : f = [start]) :
    takeByte b s =
      .next (if start = Config.startShort then shortForm b (storeByte b s)
        else concluded .unsupportedFrame (storeByte b s)) := by
  have hheld : (storeByte b s).rxbuf = Memory.holding [start, b] := by
    rw [storeByte_of_holding hcount hbuf, hf]
    rfl
  rw [takeByte_of_count hcount hroom, if_pos (by rw [hf]; rfl), rxHeader_of_holding hheld]

/-- The byte that completes the declared length is judged (R178). -/
theorem takeByte_of_last (hbuf : s.rxbuf = Memory.holding f) (hheader : 2 ≤ f.length) (hlast : s.rxcnt + 1 = s.rxtotal)
    (htotal : s.rxtotal.toNat = s.rxlen.toNat + 5) :
    takeByte b s = .next (concluded (judge s.rxlen.toNat (f ++ [b])) (storeByte b s)) := by
  have hlen : (f ++ [b]).length = s.rxlen.toNat + 5 := by
    rw [List.length_append, List.length_singleton]
    bv_omega
  have hheld : (storeByte b s).rxbuf = Memory.holding (f ++ [b]) := by rw [storeByte_of_holding hcount hbuf]
  rw [takeByte_of_count hcount hroom, if_neg (by omega), if_pos ⟨hheader, hlast⟩]
  exact rxComplete_of_holding hheld hlen htotal

end

/-- A last byte that is not the end marker (R170). -/
theorem judge_concat_of_wrong_end {n : Nat} {f : List Byte} {b : Byte} (hend : f.length = n + 4) (hb : b ≠ Config.endMark) :
    judge n (f ++ [b]) = .malformedLength := by
  refine judge_of_wrong_end ?_
  rw [← hend, List.getD_eq_getElem?_getD, List.getElem?_concat_length]
  exact hb

theorem two_le_length_of_drop {f p : List Byte} {hi lo : Byte} (h : f.drop 2 = p ++ [hi, lo]) : 2 ≤ f.length := by
  have hlength := congrArg List.length h
  rw [List.length_drop, List.length_append] at hlength
  simp only [List.length_cons] at hlength
  omega

/-- A last byte that is the end marker: the checksum field decides (R170). -/
theorem judge_concat_of_fields {f p : List Byte} {hi lo b : Byte} (h : f.drop 2 = p ++ [hi, lo]) (hb : b = Config.endMark) :
    judge p.length (f ++ [b]) =
      if crc16 p = halfOf hi lo then .ok p else .checksumMismatch (crc16 p) (halfOf hi lo) := by
  have hfields : (f ++ [b]).drop 2 = p ++ [hi, lo, b] := by
    rw [List.drop_append_of_le_length (two_le_length_of_drop h), h, List.append_assoc]
    rfl
  rw [judge_of_fields hfields, if_neg (not_not.2 hb), ite_not]

/-- Settles O38: the byte is taken from the queue, and the position it is stored at decides which step follows. -/
theorem rxPopOutcomes : Obligations.RxPopOutcomes := by
  intro s b q f hs hqueue hferr hovr hfree hbuf hcount hroom
  obtain ⟨u, hu⟩ : ∃ u, u = { s with rxfifo := q } := ⟨_, rfl⟩
  have hpop : runEvent .rxPop s = takeByte b u := hu ▸ rxPop_of_enabled hs hqueue hferr hovr hfree
  have hbuf' : u.rxbuf = Memory.holding f := hu ▸ hbuf
  have hcount' : f.length = u.rxcnt.toNat := hu ▸ hcount
  have hstored : storeByte b u = { s with rxfifo := q, rxbuf := Memory.holding (f ++ [b]), rxcnt := s.rxcnt + 1 } :=
    (storeByte_of_holding hcount' hbuf' b).trans (by rw [hu])
  have htwo (hone : f.length = 1) : s.rxcnt + 1 = 2 := by bv_omega
  rw [hpop]
  refine ⟨fun hf => ?_, fun hf => ?_, fun start hf hstart => ?_, fun hf hlast => ?_, fun hf hlast htotal hb => ?_,
    fun p hi lo hlast htotal hb hp hf => ?_⟩
  · have hone : s.rxcnt + 1 = 1 := by bv_omega
    rw [takeByte_of_stored hcount' hroom b (by omega) (by omega), hstored, List.length_eq_zero_iff.1 hf, hone]
    rfl
  · have hshort : (0x02 : Byte) = Config.startShort := rfl
    rw [takeByte_of_header hcount' hroom b hbuf' hf, if_pos hshort, hstored, htwo (hf ▸ rfl), hf]
    rfl
  · have hother : start ≠ Config.startShort := hstart
    rw [takeByte_of_header hcount' hroom b hbuf' hf, if_neg hother, hstored, htwo (hf ▸ rfl), hf]
    rfl
  · have hmiddle : ¬(2 ≤ f.length ∧ u.rxcnt + 1 = u.rxtotal) := hu ▸ fun h => hlast h.2
    rw [takeByte_of_stored hcount' hroom b (by omega) hmiddle, hstored]
  · have hend : f.length = u.rxlen.toNat + 4 := by
      rw [hu]
      bv_omega
    rw [takeByte_of_last hcount' hroom b hbuf' hf (hu ▸ hlast) (hu ▸ htotal), judge_concat_of_wrong_end hend hb, hstored]
    rfl
  · have hp' : p.length = u.rxlen.toNat := hu ▸ hp
    rw [takeByte_of_last hcount' hroom b hbuf' (two_le_length_of_drop hf) (hu ▸ hlast) (hu ▸ htotal), ← hp',
      judge_concat_of_fields hf hb, hstored]
    split
    · rename_i hsum
      rw [← hsum]
      rfl
    · rfl

/-! ### A receive operation ends (R173, R320) -/

theorem rxPop_rxtimer {s t : State} (h : rxPop s = .next t) : t.rxtimer = s.rxtimer := by
  obtain ⟨-, hpop⟩ | ⟨-, b, q, -, hpop⟩ := rxPop_cases s <;> rw [hpop] at h
  · cases h
    rfl
  · obtain ⟨_, _, _, _, _, _, rfl⟩ := takeByte_updates h
    rfl

theorem deliver_rxtimer {bs : List Byte} {s t : State} (h : deliver bs s = .next t) : t.rxtimer = s.rxtimer :=
  deliver_keeps (fun u => u.rxtimer = s.rxtimer) (fun x u hu => (urxBit_sameDeframer x u).rxtimer.trans hu)
    (fun _ _ hu hpop => (rxPop_rxtimer hpop).trans hu) bs s t rfl h

theorem urxSamples_rxtimer (xs : List Bool) (s : State) : (urxSamples xs s).rxtimer = s.rxtimer :=
  urxSamples_keeps (fun u => u.rxtimer = s.rxtimer) (fun x u hu => (urxBit_sameDeframer x u).rxtimer.trans hu) xs s rfl

/-- A message that arrives while receiving leaves the timer: RX_START is refused (R172). -/
theorem runMessage_rxtimer {f : Format} {bytes : List Byte} {s t : State} (hs : s.rxstate = .receiving)
    (h : runMessage f bytes s = .next t) : t.rxtimer = s.rxtimer := by
  obtain ⟨a, hrun⟩ | hrun | ⟨b, hrun⟩ | ⟨payload, hrun⟩ | hrun | hrun | ⟨bs, hrun⟩ | ⟨xs, hrun⟩ | ⟨r, hrun⟩ :=
    runMessage_cases f bytes s <;> rw [hrun] at h
  · cases h; rfl
  · cases h; rfl
  · cases h; rfl
  · exact (sendFrame_sameReceive h).rxtimer
  · rw [execRxStart, if_pos hs] at h
    cases h
    rfl
  · obtain ⟨r, rfl⟩ := execRxRead_next s t h
    rfl
  · exact deliver_rxtimer h
  · cases h; exact urxSamples_rxtimer xs s
  · cases h

/-- While an operation goes on, the timer is moved by ticks only (R42, R180). -/
theorem runEvent_rxtimer {e : Event} {s t : State} (hs : s.rxstate = .receiving) (h : runEvent e s = .next t)
    (ht : t.rxstate = .receiving) (htick : e ≠ .rxTick) : t.rxtimer = s.rxtimer := by
  cases e with
  | message f bytes => exact runMessage_rxtimer hs h
  | txEmit => exact (txEmit_sameReceive h).rxtimer
  | txFinish => exact (txFinish_sameReceive h).rxtimer
  | utxBit => cases h; exact (utxBit_sameReceive s).rxtimer
  | urxBit x => cases h; exact (urxBit_sameDeframer x s).rxtimer
  | rxPop => exact rxPop_rxtimer h
  | rxLinkErr =>
    obtain ⟨-, herr⟩ | ⟨-, herr⟩ := rxLinkErr_cases s <;> rw [runEvent_rxLinkErr, herr] at h <;> cases h <;> rfl
  | tickDue => cases h; rfl
  | rxTick => exact absurd rfl htick
  | reset => cases h; cases ht

/-- A tick that is counted and does not end the operation (R180). -/
theorem rxTick_goesOn {s t : State} (hs : s.rxstate = .receiving)
    (hfree : Config.rxTickOrder ≠ .popFirst ∨ s.rxfifo = []) (h : runEvent .rxTick s = .next t)
    (ht : t.rxstate = .receiving) : s.rxtimer ≠ 99 ∧ t.rxtimer = s.rxtimer + 1 := by
  by_cases htimer : s.rxtimer = 99
  · rw [runEvent_rxTick_last hs hfree htimer] at h
    cases h
    cases ht
  · rw [runEvent_rxTick_before_last hs hfree htimer] at h
    cases h
    exact ⟨htimer, rfl⟩

/-- While an operation goes on, the timer and the ticks still to come add up to the same (R180). -/
theorem runEvent_timer_and_count {e : Event} {s t : State} (hs : s.rxstate = .receiving)
    (hfree : Config.rxTickOrder ≠ .popFirst ∨ s.rxfifo = []) (hlt : s.rxtimer < 100) (h : runEvent e s = .next t)
    (ht : t.rxstate = .receiving) (es : List Event) :
    t.rxtimer < 100 ∧ t.rxtimer.toNat + es.count .rxTick = s.rxtimer.toNat + (e :: es).count .rxTick := by
  by_cases he : e = .rxTick
  · subst he
    obtain ⟨hne, htimer⟩ := rxTick_goesOn hs hfree h ht
    rw [List.count_cons_self, htimer]
    constructor <;> bv_omega
  · rw [runEvent_rxtimer hs h ht he, List.count_cons_of_ne he]
    exact ⟨hlt, rfl⟩

/-! Under `pop_first` a tick waits for the queue, so it has to stay empty (R182). -/

theorem exec_hostOp_rxfifo {i : Instr} {s t : State} (hformat : formatOf i = .hostOp) (h : exec i s = .next t) :
    t.rxfifo = s.rxfifo := by
  cases i with
  | txFrame p => exact (sendFrame_sameReceive h).rxfifo
  | rxStart =>
    obtain ⟨-, hstart⟩ | ⟨-, hstart⟩ := execRxStart_cases s <;> rw [exec, hstart] at h <;> cases h <;> rfl
  | rxRead =>
    obtain ⟨r, rfl⟩ := execRxRead_next s t h
    rfl
  | frameShort | frameLong | uartChar | cmdFwVersion | cmdGetValues | cmdSetDuty | cmdSetCurrent | cmdSetBrakeCurrent
  | cmdSetRpm | cmdKeepalive => cases hformat
  | _ => cases h; rfl

theorem runMessage_hostOp_rxfifo {bytes : List Byte} {s t : State} (h : runMessage .hostOp bytes s = .next t) :
    t.rxfifo = s.rxfifo := by
  cases hdecode : decode .hostOp bytes with
  | error e =>
    simp only [runMessage, hdecode, undecoded] at h
    cases h
  | ok i =>
    rw [runMessage_of_decode hdecode] at h
    exact exec_hostOp_rxfifo (encodes_of_decode hdecode).format h

theorem runEvent_keeps_empty_queue {e : Event} {s t : State} (hnothing : bringsNothing e = true) (hqueue : s.rxfifo = [])
    (h : runEvent e s = .next t) : t.rxfifo = [] := by
  cases e with
  | message f bytes =>
    cases f with
    | hostOp => exact (runMessage_hostOp_rxfifo h).trans hqueue
    | frame | char | payload => cases hnothing
  | txEmit => exact (txEmit_sameReceive h).rxfifo.trans hqueue
  | txFinish => exact (txFinish_sameReceive h).rxfifo.trans hqueue
  | utxBit => cases h; exact (utxBit_sameReceive s).rxfifo.trans hqueue
  | urxBit x => cases hnothing
  | rxPop =>
    have hdisabled : ¬rxPopEnabled s = true := fun hen => ((rxPopEnabled_iff s).1 hen).2.1 hqueue
    rw [runEvent_rxPop, rxPop_of_not_enabled hdisabled] at h
    cases h
    exact hqueue
  | rxLinkErr =>
    obtain ⟨-, herr⟩ | ⟨-, herr⟩ := rxLinkErr_cases s <;> rw [runEvent_rxLinkErr, herr] at h <;> cases h <;> exact hqueue
  | tickDue => cases h; exact hqueue
  | rxTick =>
    obtain ⟨-, htick⟩ | ⟨-, htick⟩ := rxTick_cases s <;> rw [runEvent, htick] at h <;> cases h
    · exact hqueue
    · obtain ⟨-, hcount⟩ | ⟨-, -, hcount⟩ | ⟨-, -, hcount⟩ := countTick_cases s <;> rw [hcount] <;> exact hqueue
  | reset => cases h; rfl

/-- Settles O43: by induction on the run; each event leaves `RX_RECEIVING`, or keeps the sum of the timer and the ticks to
come. -/
theorem receiveAlwaysEnds : Obligations.ReceiveAlwaysEnds := by
  intro es
  induction es with
  | nil =>
    intro s t _ _ hlt _ henough
    rw [List.count_nil] at henough
    bv_omega
  | cons e es ih =>
    intro s t hfree hs hlt hrun henough
    obtain ⟨u, he, hrest⟩ := (andThen_next_iff _ _ _).1 hrun
    by_cases hu : u.rxstate = .receiving
    · obtain ⟨hlt', hsum⟩ := runEvent_timer_and_count hs (hfree.imp_right And.left) hlt he hu es
      have hfree' : Config.rxTickOrder ≠ .popFirst ∨ (u.rxfifo = [] ∧ ∀ x ∈ es, bringsNothing x = true) :=
        hfree.imp_right fun ⟨hqueue, hnothing⟩ =>
          ⟨runEvent_keeps_empty_queue (hnothing e List.mem_cons_self) hqueue he,
            fun x hx => hnothing x (List.mem_cons_of_mem e hx)⟩
      obtain ⟨k, hk, v, hv, hleft⟩ := ih u t hfree' hu hlt' hrest (hsum ▸ henough)
      refine ⟨k + 1, Nat.succ_le_succ hk, v, ?_, hleft⟩
      rw [List.take_succ_cons, runEvents_cons_of_next he, hv]
    · exact ⟨1, Nat.succ_le_succ (Nat.zero_le _), u, runEvents_cons_of_next he [], hu⟩

/-! ### A frame message is its samples and pops (R187, R188, log entry 9) -/

theorem runEvent_frame (bytes : List Byte) (s : State) : runEvent (.message .frame bytes) s = deliver bytes s := by
  rw [runEvent_message]
  cases hdecode : decode .frame bytes with
  | error e => simp only [runMessage, hdecode, undecoded]
  | ok i =>
    obtain ⟨hformat, rfl, -⟩ := encodes_of_decode hdecode
    rw [runMessage_of_decode hdecode]
    cases i with
    | frameShort p crc => exact exec_frameShort p crc s
    | frameLong len rest => exact exec_frameLong len rest s
    | _ => cases hformat

theorem popAll_of_not_enabled {s : State} (h : ¬rxPopEnabled s = true) (n : Nat) : popAll n s = .next s := by
  cases n with
  | zero => rfl
  | succ n => exact if_neg h

theorem runEvents_rxPops (n : Nat) (s : State) : runEvents (List.replicate n .rxPop) s = popAll n s := by
  induction n generalizing s with
  | zero => rfl
  | succ n ih =>
    rw [List.replicate_succ, runEvents, runEvent_rxPop, funext ih]
    by_cases h : rxPopEnabled s = true
    · rw [popAll, if_pos h]
    · rw [popAll_of_not_enabled h, rxPop_of_not_enabled h]
      exact popAll_of_not_enabled h n

theorem rxPop_rxfifo_length {s t : State} (henabled : rxPopEnabled s = true) (h : rxPop s = .next t) :
    t.rxfifo.length + 1 = s.rxfifo.length := by
  obtain ⟨hs, hready, hferr, hovr, hfree⟩ := (rxPopEnabled_iff s).1 henabled
  obtain ⟨b, q, hqueue⟩ := List.exists_cons_of_ne_nil hready
  obtain ⟨hrest, -⟩ := rxPopStoresOneByte s t b q hs hqueue hferr hovr hfree h
  rw [hrest, hqueue, List.length_cons]

/-- Two numbers of pops that both exhaust the queue do the same. -/
theorem popAll_of_enough {n m : Nat} {s : State} (hn : s.rxfifo.length ≤ n) (hm : s.rxfifo.length ≤ m) :
    popAll n s = popAll m s := by
  induction n generalizing m s with
  | zero =>
    have hqueue : ¬rxPopEnabled s = true := fun h =>
      ((rxPopEnabled_iff s).1 h).2.1 (List.length_eq_zero_iff.1 (Nat.le_zero.1 hn))
    rw [popAll_of_not_enabled hqueue, popAll_of_not_enabled hqueue]
  | succ n ih =>
    by_cases h : rxPopEnabled s = true
    · obtain ⟨-, hqueue, -⟩ := (rxPopEnabled_iff s).1 h
      obtain ⟨m, rfl⟩ := Nat.exists_eq_add_one_of_ne_zero
        (Nat.ne_of_gt (Nat.lt_of_lt_of_le (List.length_pos_of_ne_nil hqueue) hm))
      rw [popAll, popAll, if_pos h, if_pos h]
      cases hpop : rxPop s with
      | next t =>
        have hlength := rxPop_rxfifo_length h hpop
        exact ih (by omega) (by omega)
      | fault r => rfl
      | refused r => rfl
    · rw [popAll_of_not_enabled h, popAll_of_not_enabled h]

/-- After `m` samples at most one byte has been pushed on a queue of `n`, and after a push the receiver has got no further than
the samples since then bring it (R220). -/
def PushedAtMostOne (n m : Nat) (s : State) : Prop :=
  s.rxfifo.length ≤ n ∨ (s.rxfifo.length ≤ n + 1 ∧ s.urxn.toNat + 1 ≤ m)

theorem pushedAtMostOne_urxBit {n m : Nat} {s : State} (x : Bool) (hm : m < 10) (h : PushedAtMostOne n m s) :
    PushedAtMostOne n (m + 1) (urxBit x s) := by
  obtain ⟨-, -, hbit⟩ | ⟨hidle, -, hbit⟩ | ⟨-, hdata, hbit⟩ | ⟨-, -, hbit⟩ | ⟨hstop, -, -, hbit⟩ | ⟨-, -, -, hbit⟩ :=
    urxBit_cases x s <;> rw [hbit]
  · exact h.imp_right fun ⟨hlength, hbits⟩ => ⟨hlength, by omega⟩
  · exact h.imp_right fun ⟨hlength, hbits⟩ => ⟨hlength, show 1 + 1 ≤ m + 1 by omega⟩
  · exact h.imp_right fun ⟨hlength, hbits⟩ => ⟨hlength, show (s.urxn + 1).toNat + 1 ≤ m + 1 by bv_omega⟩
  · exact h.imp_right fun ⟨hlength, hbits⟩ => ⟨hlength, show 0 + 1 ≤ m + 1 by omega⟩
  · obtain hlength | ⟨-, hbits⟩ := h
    · refine .inr ⟨?_, show 0 + 1 ≤ m + 1 by omega⟩
      rw [List.length_append, List.length_singleton]
      omega
    · bv_omega
  · exact h.imp_right fun ⟨hlength, hbits⟩ => ⟨hlength, show 0 + 1 ≤ m + 1 by omega⟩

theorem pushedAtMostOne_urxSamples {n m : Nat} {s : State} (xs : List Bool) (hm : m + xs.length ≤ 10)
    (h : PushedAtMostOne n m s) : PushedAtMostOne n (m + xs.length) (urxSamples xs s) := by
  induction xs generalizing m s with
  | nil => exact h
  | cons x xs ih =>
    rw [List.length_cons] at hm ⊢
    have hrest := ih (m := m + 1) (by omega) (pushedAtMostOne_urxBit x (by omega) h)
    rwa [Nat.add_assoc, Nat.add_comm 1] at hrest

/-- A character brings at most one byte, wherever the receiver stands. -/
theorem peerByte_rxfifo_length (b : Byte) (s : State) : (peerByte b s).rxfifo.length ≤ s.rxfifo.length + 1 := by
  have hpushed : PushedAtMostOne s.rxfifo.length 10 (peerByte b s) :=
    pushedAtMostOne_urxSamples (m := 0) (charSamples (charWord b)) (Nat.le_refl 10) (.inl (Nat.le_refl _))
  obtain h | ⟨h, -⟩ := hpushed
  · exact Nat.le_succ_of_le h
  · exact h

/-- The samples of a character and pops enough to exhaust the queue are the byte's delivery. -/
theorem runEvents_charLevels_rxPops (b : Byte) {s : State} {n : Nat} (hn : s.rxfifo.length < n) :
    runEvents ((charLevels b).map Event.urxBit ++ List.replicate n .rxPop) s = deliverByte b s := by
  have hsamples : runEvents ((charLevels b).map Event.urxBit) s = .next (peerByte b s) := by
    rw [runEvents_urxBits, peerByte, charSamples_charWord]
  rw [runEvents_append hsamples, runEvents_rxPops, deliverByte]
  exact popAll_of_enough (Nat.le_trans (peerByte_rxfifo_length b s) hn) (Nat.le_refl _)

/-- Settles O45: a frame message is delivered whether it decodes or not, and delivery goes byte by byte. -/
theorem frameMessageIsDelivered : Obligations.FrameMessageIsDelivered := by
  refine ⟨runEvent_frame, runEvent_frame [], fun b bytes s n hn => ?_, fun p rest crc len v g s => ?_⟩
  · rw [runEvent_frame, deliver_cons, runEvents_charLevels_rxPops b hn, funext (runEvent_frame bytes)]
  · simp only [runEvent_frame]
    exact ⟨exec_frameShort p crc s, exec_frameLong len rest s, exec_fwVersionResponse v s, exec_getValuesResponse g s⟩

/-! ### `decode` on growing byte sequences (R171) -/

theorem judge_ne_timeout (n : Nat) (f : List Byte) : judge n f ≠ .timeout := by
  simp only [judge]
  split
  · exact nofun
  · split <;> exact nofun

theorem judge_ok_length {n : Nat} {f p : List Byte} (hlen : n + 2 ≤ f.length) (h : judge n f = .ok p) : p.length = n := by
  simp only [judge] at h
  split at h
  · cases h
  · split at h
    · cases h
    · cases h
      rw [List.length_take, List.length_drop]
      omega

/-- A verdict stands, whatever follows (R171). -/
theorem decodeStream_append {f : List Byte} (h : (decodeStream f).1 ≠ .timeout) (rest : List Byte) :
    decodeStream (f ++ rest) = decodeStream f := by
  match f with
  | [] | [_] => exact absurd rfl h
  | start :: len :: r =>
    rw [decodeStream_cons_cons] at h
    rw [List.cons_append, List.cons_append, decodeStream_cons_cons, decodeStream_cons_cons]
    split
    · rfl
    · rename_i hstart
      rw [if_neg hstart] at h
      by_cases hshort : (start :: len :: r).length < len.toNat + 5
      · rw [if_pos hshort] at h
        exact absurd rfl h
      · have hlong : ¬(start :: len :: (r ++ rest)).length < len.toNat + 5 := by
          simp only [List.length_cons, List.length_append] at hshort ⊢
          omega
        rw [if_neg hshort, if_neg hlong, ← List.cons_append, ← List.cons_append,
          List.take_append_of_le_length (Nat.not_lt.1 hshort)]

/-- Without a verdict everything is consumed, and the header, once it is there, declares more (R171). -/
theorem decodeStream_timeout {f : List Byte} (h : (decodeStream f).1 = .timeout) :
    (decodeStream f).2 = f.length ∧
      (f = [] ∨ (∃ start, f = [start]) ∨
        ∃ len r, f = Config.startShort :: len :: r ∧ f.length < len.toNat + 5) := by
  match f with
  | [] => exact ⟨rfl, .inl rfl⟩
  | [start] => exact ⟨rfl, .inr (.inl ⟨start, rfl⟩)⟩
  | start :: len :: r =>
    rw [decodeStream_cons_cons] at h ⊢
    split at h
    · cases h
    · rename_i hstart
      split at h
      · rename_i hshort
        rw [if_neg hstart, if_pos hshort]
        exact ⟨rfl, .inr (.inr ⟨len, r, by rw [not_not.1 hstart], hshort⟩)⟩
      · exact absurd h (judge_ne_timeout _ _)

/-- The byte that completes the declared length: the judgement of all bytes (R170, R171). -/
theorem decodeStream_of_complete {len : Byte} {r : List Byte} (h : (Config.startShort :: len :: r).length = len.toNat + 5) :
    decodeStream (Config.startShort :: len :: r) =
      (judge len.toNat (Config.startShort :: len :: r), (Config.startShort :: len :: r).length) := by
  rw [decodeStream_cons_cons, if_neg (not_not.2 rfl), h, if_neg (Nat.lt_irrefl _), ← h, List.take_length]
  rfl

/-! ### One byte of an operation under way (R176 to R178) -/

/-- The deframer listens, and has accumulated exactly the bytes `f`. -/
structure Accumulated (s : State) (f : List Byte) : Prop where
  listening : Listening s
  count : f.length = s.rxcnt.toNat
  buffer : s.rxbuf = Memory.holding f

theorem UnderWay.accumulated {s : State} {f : List Byte} (h : UnderWay s f) : Accumulated s f :=
  ⟨⟨h.receiving, h.queue, h.between, h.noError, h.popFree⟩, h.count.symm, h.buffer⟩

theorem Accumulated.underWay {s : State} {f : List Byte} (h : Accumulated s f) (hverdict : (decodeStream f).1 = .timeout)
    (hheader : ∀ start len r, f = start :: len :: r → s.rxlen = len ∧ s.rxtotal = declaredTotal len) : UnderWay s f where
  receiving := h.listening.receiving
  noVerdict := hverdict
  count := h.count.symm
  buffer := h.buffer
  header := hheader
  queue := h.listening.queue
  between := h.listening.between
  noError := h.listening.noError
  popFree := h.listening.popFree

/-- Writing elements the byte goes through, or the length fields, leaves the deframer listening. -/
theorem listening_update {s : State} (h : Listening s) {urxsr : Byte} {rxbuf : Memory} {rxcnt : BitVec 9} {rxlen : Byte}
    {rxtotal : BitVec 9} : Listening { s with urxsr, rxbuf, rxcnt, rxlen, rxtotal } :=
  ⟨h.receiving, h.queue, h.between, h.noError, h.popFree⟩

theorem Accumulated.header {s : State} {f : List Byte} (h : Accumulated s f) (len : Byte) :
    Accumulated (shortForm len s) f :=
  ⟨listening_update h.listening, h.count, h.buffer⟩

/-- The state after the byte `b` has passed through the receiver and the queue into the buffer, before it is judged. -/
def arrived (b : Byte) (s : State) : State := storeByte b { s with urxsr := b }

theorem Accumulated.snoc {s : State} {f : List Byte} (h : Accumulated s f) (hroom : f.length < 260) (b : Byte) :
    Accumulated (arrived b s) (f ++ [b]) := by
  have hcount : f.length = s.rxcnt.toNat := h.count
  have hstored : arrived b s = _ := storeByte_of_holding (s := { s with urxsr := b }) h.count h.buffer b
  rw [hstored]
  refine ⟨listening_update h.listening, ?_, rfl⟩
  rw [List.length_append, List.length_singleton]
  bv_omega

/-- From `s` to `t` the same receive operation is under way, with the same time spent on it. -/
structure SameOperation (s t : State) : Prop where
  path : ReceiveOnly s t
  timer : t.rxtimer = s.rxtimer
  err : t.rxerr = s.rxerr

theorem sameOperation_arrived (b : Byte) (s : State) : SameOperation s (arrived b s) := ⟨receiveOnly_update, rfl, rfl⟩

theorem sameOperation_shortForm_arrived (b : Byte) (s : State) : SameOperation s (shortForm b (arrived b s)) :=
  ⟨receiveOnly_update, rfl, rfl⟩

/-- The deframer has accumulated `all`, and they have the verdict `v`, which their last byte brought (R171). -/
structure Decided (v : Verdict) (all : List Byte) (s : State) : Prop where
  accumulated : Accumulated s all
  decode : decodeStream all = (v, all.length)
  isVerdict : v ≠ .timeout
  length : ∀ p, v = .ok p → p.length = s.rxlen.toNat

/-- A byte has arrived in an operation under way that had consumed `f`: it goes on, or it ends with the verdict of `decode`
(R176 to R178). -/
def Continues (r : Result) (f : List Byte) (s : State) : Prop :=
  ∃ u, SameOperation s u ∧ ((r = .next u ∧ UnderWay u f) ∨ ∃ v, r = .next (concluded v u) ∧ Decided v f u)

section
variable {s : State} {f : List Byte}

/-- The start byte. -/
theorem UnderWay.deliverByte_start (h : UnderWay s []) (b : Byte) : Continues (deliverByte b s) [b] s := by
  have hacc := h.accumulated
  refine ⟨arrived b s, sameOperation_arrived b s, .inl ⟨?_, (hacc.snoc (by simp) b).underWay rfl nofun⟩⟩
  rw [deliverByte_of_listening b hacc.listening]
  exact takeByte_of_stored (s := { s with urxsr := b }) hacc.count (by simp) b nofun nofun

/-- The second byte. -/
theorem UnderWay.deliverByte_header {start : Byte} (h : UnderWay s [start]) (b : Byte) :
    Continues (deliverByte b s) [start, b] s := by
  have hacc := h.accumulated
  have harrived := hacc.snoc (by simp) b
  have hbyte : deliverByte b s = _ := (deliverByte_of_listening b hacc.listening).trans
    (takeByte_of_header (s := { s with urxsr := b }) hacc.count (by simp) b hacc.buffer rfl)
  by_cases hstart : start = Config.startShort
  · rw [if_pos hstart] at hbyte
    refine ⟨_, sameOperation_shortForm_arrived b s, .inl ⟨hbyte, (harrived.header b).underWay ?_ fun _ _ _ hf => ?_⟩⟩
    · rw [hstart, List.singleton_append, decodeStream_of_incomplete (by simp)]
    · cases hf
      exact ⟨rfl, rfl⟩
  · rw [if_neg hstart] at hbyte
    exact ⟨_, sameOperation_arrived b s, .inr ⟨_, hbyte, harrived, if_pos hstart, nofun, nofun⟩⟩

/-- A byte after the header. -/
theorem UnderWay.deliverByte_body {len : Byte} {r : List Byte} (h : UnderWay s (Config.startShort :: len :: r))
    (hmore : (Config.startShort :: len :: r).length < len.toNat + 5) (b : Byte) :
    Continues (deliverByte b s) (Config.startShort :: len :: (r ++ [b])) s := by
  have hacc := h.accumulated
  have hmax := len.isLt
  have hcount := hacc.count
  have harrived := hacc.snoc (by omega) b
  have hbyte := deliverByte_of_listening b hacc.listening
  obtain ⟨rfl, htotal⟩ := h.header _ _ _ rfl
  have htotalNat : s.rxtotal.toNat = s.rxlen.toNat + 5 := by rw [htotal, declaredTotal_toNat]
  have hlength : (Config.startShort :: s.rxlen :: (r ++ [b])).length = (Config.startShort :: s.rxlen :: r).length + 1 := by simp
  by_cases hlast : (Config.startShort :: s.rxlen :: r).length + 1 = s.rxlen.toNat + 5
  · have hwhole := hlength.trans hlast
    have htake := takeByte_of_last (s := { s with urxsr := b }) hacc.count (by omega) b hacc.buffer (by simp)
      (show s.rxcnt + 1 = s.rxtotal by bv_omega) htotalNat
    exact ⟨_, sameOperation_arrived b s, .inr ⟨_, hbyte.trans htake, harrived,
      decodeStream_of_complete hwhole, judge_ne_timeout _ _, fun p => judge_ok_length (hwhole ▸ by simp)⟩⟩
  · have hend : ¬s.rxcnt + 1 = s.rxtotal := by bv_omega
    have htake := takeByte_of_stored (s := { s with urxsr := b }) hacc.count (by omega) b (by simp) fun h => hend h.2
    refine ⟨_, sameOperation_arrived b s, .inl ⟨hbyte.trans htake, harrived.underWay ?_ fun _ _ _ hf => ?_⟩⟩
    · have hshort : (r ++ [b]).length + 2 < s.rxlen.toNat + 5 := by
        simp only [List.length_cons, List.length_append] at hlength hmore hlast ⊢
        omega
      exact congrArg Prod.fst (decodeStream_of_incomplete hshort)
    · cases hf
      exact ⟨rfl, htotal⟩

theorem UnderWay.deliverByte_continues (h : UnderWay s f) (b : Byte) : Continues (deliverByte b s) (f ++ [b]) s := by
  obtain ⟨-, rfl | ⟨start, rfl⟩ | ⟨len, r, rfl, hmore⟩⟩ := decodeStream_timeout h.noVerdict
  · exact h.deliverByte_start b
  · exact h.deliverByte_header b
  · exact h.deliverByte_body hmore b

end

/-! ### The deframer follows `decode` (R188) -/

theorem queueAfter_drop_length (all : List Byte) : queueAfter [] (all.drop all.length) = [] := by
  rw [List.drop_length, queueAfter_nil]

/-- What a verdict writes beside the two checksums (R178, R268). -/
theorem concluded_updates (v : Verdict) (s : State) : ∃ crccalc crcrecv,
    concluded v s = { s with rxerr := verdictStatus v, rxstate := .done, crccalc, crcrecv } := by
  cases v <;> exact ⟨_, _, rfl⟩

section
variable {s u t : State} {all : List Byte} {v : Verdict}

/-- Nothing more has arrived. -/
theorem UnderWay.followed (h : UnderWay s all) : Followed all s s := by
  obtain ⟨hconsumed, -⟩ := decodeStream_timeout h.noVerdict
  exact
    { consumed := h.count.trans hconsumed.symm
      queue := by rw [hconsumed, queueAfter_drop_length, h.queue]
      timer := rfl
      transmit := (ReceiveOnly.refl s).transmit
      accumulator := rfl
      goesOn := fun _ => ⟨h.receiving, rfl⟩
      ended := fun hverdict => absurd h.noVerdict hverdict
      payload := fun p hok => by rw [h.noVerdict] at hok; cases hok
      mismatch := fun c r hne => by rw [h.noVerdict] at hne; cases hne }

/-- The operation has ended with the verdict of exactly the bytes it consumed. -/
theorem Decided.followed (h : Decided v all u) : Followed all u (concluded v u) := by
  have hdecode := h.decode
  have hverdict : (decodeStream all).1 = v := congrArg Prod.fst hdecode
  have hconsumed : (decodeStream all).2 = all.length := congrArg Prod.snd hdecode
  obtain ⟨c, r, hend⟩ := concluded_updates v u
  constructor
  case consumed => rw [hconsumed, hend, h.accumulated.count]
  case queue => rw [hconsumed, queueAfter_drop_length, hend, ← h.accumulated.listening.queue]
  case timer => rw [hend]
  case transmit => rw [hend]; exact receiveOnly_update.transmit
  case accumulator => rw [hend]
  case goesOn => exact fun hnone => absurd (hverdict.symm.trans hnone) h.isVerdict
  case ended => rw [hverdict, hend]; exact fun _ => ⟨rfl, rfl⟩
  case payload =>
    intro p hok
    obtain rfl : v = .ok p := hverdict.symm.trans hok
    obtain ⟨-, -, hframe⟩ := take_eq_encodeFrame_of_decodeStream hdecode
    rw [List.take_length] at hframe
    have hslice : payloadSlice u = .ok p := payloadSlice_of_frame (h.length p rfl) (hframe ▸ h.accumulated.buffer)
    exact ⟨hslice, rfl, rfl⟩
  case mismatch =>
    intro computed received hne
    obtain rfl : v = .checksumMismatch computed received := hverdict.symm.trans hne
    exact ⟨rfl, rfl⟩

theorem Decided.unattended (h : Decided v all u) : Unattended (concluded v u) := by
  obtain ⟨c, r, hend⟩ := concluded_updates v u
  rw [hend]
  exact ⟨nofun, h.accumulated.listening.between⟩

theorem Followed.of_sameOperation (h : Followed all u t) (hsame : SameOperation s u) : Followed all s t where
  consumed := h.consumed
  queue := h.queue
  timer := h.timer.trans hsame.timer
  transmit := (hsame.path.trans ⟨h.transmit, h.accumulator⟩).transmit
  accumulator := h.accumulator.trans hsame.path.crc
  goesOn := fun hnone => (h.goesOn hnone).imp_right fun herr => herr.trans hsame.err
  ended := h.ended
  payload := h.payload
  mismatch := h.mismatch

/-- After the verdict, bytes that arrive are queued (R183, R218). -/
theorem Followed.append (h : Followed all s t) (hconsumed : (decodeStream all).2 = all.length)
    (hverdict : (decodeStream all).1 ≠ .timeout) (ht : Unattended t) (rest : List Byte) :
    ∃ t', deliver rest t = .next t' ∧ Followed (all ++ rest) s t' := by
  have hstands := decodeStream_append hverdict rest
  have hqueue : t.rxfifo = [] := by rw [h.queue, hconsumed, queueAfter_drop_length]
  exact ⟨_, deliver_of_unattended rest ht,
    { consumed := by rw [hstands]; exact h.consumed
      queue := by rw [hstands, hqueue, hconsumed, List.drop_left]
      timer := h.timer
      transmit := ⟨h.transmit.txstate, h.transmit.txframe, h.transmit.txtotal, h.transmit.txpos, h.transmit.utxsr,
        h.transmit.utxn, h.transmit.txd⟩
      accumulator := h.accumulator
      goesOn := by rw [hstands]; exact fun hnone => absurd hnone hverdict
      ended := by rw [hstands]; exact h.ended
      payload := by rw [hstands]; exact h.payload
      mismatch := by rw [hstands]; exact h.mismatch }⟩

end

/-- Whatever arrives in an operation under way continues what it has consumed (R188). -/
theorem UnderWay.deliver_followed {f : List Byte} {s : State} (h : UnderWay s f) (bytes : List Byte) :
    ∃ t, deliver bytes s = .next t ∧ Followed (f ++ bytes) s t := by
  induction bytes generalizing f s with
  | nil => exact ⟨s, rfl, by rw [List.append_nil]; exact h.followed⟩
  | cons b bytes ih =>
    have hall : f ++ b :: bytes = f ++ [b] ++ bytes := by rw [List.append_assoc]; rfl
    obtain ⟨u, hsame, ⟨hbyte, hnext⟩ | ⟨v, hbyte, hdecided⟩⟩ := h.deliverByte_continues b <;>
      rw [deliver_cons, hbyte, hall]
    · obtain ⟨t, ht, hfollowed⟩ := ih hnext
      exact ⟨t, ht, hfollowed.of_sameOperation hsame⟩
    · have hfollowed := hdecided.followed.of_sameOperation hsame
      exact hfollowed.append (congrArg Prod.snd hdecided.decode)
        (by rw [hdecided.decode]; exact hdecided.isVerdict) hdecided.unattended bytes

/-- Settles O47: frames and the two responses are messages of frame bytes. -/
theorem framesContinueAnOperation : Obligations.FramesContinueAnOperation := by
  constructor
  · intro f bytes s h
    rw [runEvent_frame]
    exact h.deliver_followed bytes
  · intro f p rest crc len v g s h c hc
    obtain ⟨-, -, -, hmessages⟩ := frameMessageIsDelivered
    obtain ⟨hshort, hlong, hversion, hvalues⟩ := hmessages p rest crc len v g s
    have hexec : exec c.1 s = deliver c.2 s := by
      simp only [List.mem_cons, List.not_mem_nil, or_false] at hc
      rw [← runEvent_frame]
      obtain rfl | rfl | rfl | rfl := hc
      · exact hshort
      · exact hlong
      · exact hversion
      · exact hvalues
    rw [hexec]
    exact h.deliver_followed c.2

/-- A freshly started operation is under way and has consumed nothing. -/
theorem FreshReceive.underWay {s : State} (h : FreshReceive s) : UnderWay s [] where
  receiving := h.receiving
  noVerdict := rfl
  count := congrArg BitVec.toNat h.count
  buffer := h.buffer
  header := nofun
  queue := h.queue
  between := h.between
  noError := h.noError
  popFree := h.popFree

/-- Settles O46: the case of O47 in which nothing was consumed before; ticks find the queue empty. -/
theorem deframerFollowsDecode : Obligations.DeframerFollowsDecode := by
  intro bytes s h
  obtain ⟨t, ht, (hfollowed : Followed bytes s t)⟩ := h.underWay.deliver_followed bytes
  refine ⟨t, (runEvent_frame bytes s).trans ht, hfollowed, fun hnone hlt => ?_⟩
  obtain ⟨hreceiving, -⟩ := hfollowed.goesOn hnone
  obtain ⟨hconsumed, -⟩ := decodeStream_timeout hnone
  have hqueue : t.rxfifo = [] := by
    rw [hfollowed.queue, hconsumed]
    exact queueAfter_drop_length bytes
  have htimer : t.rxtimer = s.rxtimer := hfollowed.timer
  refine ⟨timedOut t, ?_, rfl, rfl, rfl, rfl, rfl⟩
  rw [← htimer] at hlt ⊢
  exact runEvents_ticks_past_last hreceiving (.inr hqueue) hlt (by omega)

end Sys2Proof.Machine
end

section
/-! Statements of spec/43_uart.md: one bit time of the transmitter (R214) and of the receiver (R220 to R222), a line held at one
level (R223), frames that arrive unattended (R218, R222), and that the two paths do not disturb each other (R227). -/

namespace Sys2Proof.Machine

/-! ### One bit time of the transmitter (R214) -/

@[simp] theorem runEvent_utxBit (s : State) : runEvent .utxBit s = .next (utxBit s) := rfl

/-- Settles O27: the shift register's new bits are those of `getLsbD_shiftIn`. -/
theorem utxBitDrivesLine : Obligations.UtxBitDrivesLine := by
  intro s
  rw [runEvent_utxBit]
  obtain ⟨hquiet, hbit⟩ | ⟨hbusy, hbit⟩ := utxBit_cases s <;> rw [hbit]
  · exact ⟨fun _ => rfl, fun hbusy => absurd hquiet hbusy⟩
  · refine ⟨fun hquiet => absurd hquiet hbusy, fun _ => ⟨_, rfl, ?_, fun k hk => ?_⟩⟩
    · rw [getLsbD_shiftIn _ (by omega), decide_eq_true rfl, Bool.true_or]
    · rw [getLsbD_shiftIn _ (Nat.lt_succ_of_lt hk), decide_eq_false (Nat.ne_of_lt hk), Bool.false_or]

/-! ### One bit time of the receiver (R220 to R222) -/

@[simp] theorem runEvent_urxBit (x : Bool) (s : State) : runEvent (.urxBit x) s = .next (urxBit x s) := rfl

section
variable {s : State}

theorem urxBit_idle (hbetween : s.urxn = 0) : urxBit true s = s :=
  if_pos hbetween

/-- A data bit enters `URXSR` at the position `URXN` names, and the other bits stay (R220). -/
theorem urxBit_data_bits (hfirst : 1 ≤ s.urxn) (hlast : s.urxn ≤ 8) (x : Bool) :
    ∃ v : Byte, urxBit x s = { s with urxsr := v, urxn := s.urxn + 1 } ∧
      ∀ k : Nat, k < 8 → v.getLsbD k = if k + 1 = s.urxn.toNat then x else s.urxsr.getLsbD k := by
  obtain ⟨i, hposition⟩ : ∃ i, s.urxn.toNat = i + 1 := Nat.exists_eq_add_one_of_ne_zero (by bv_omega)
  have hi : i < 8 := by bv_omega
  have hbits : s.urxn = BitVec.ofNat 4 (i + 1) := by bv_omega
  have hnext : s.urxn + 1 = BitVec.ofNat 4 (i + 2) := by bv_omega
  refine ⟨putBit s.urxsr i x, by rw [urxBit_data hi hbits, hnext], fun k hk => ?_⟩
  rw [getLsbD_putBit _ hi _ hk, hposition]
  simp only [Nat.add_right_cancel_iff]

theorem urxBit_stopBit (hstop : s.urxn = 9) (x : Bool) : urxBit x s = stopBit x s := by
  have hbusy : ¬s.urxn = 0 := by rw [hstop]; decide
  have hpast : ¬s.urxn ≤ 8 := by rw [hstop]; decide
  rw [urxBit, if_neg hbusy, if_neg hpast]

/-- A bad stop bit discards the character (R221). -/
theorem urxBit_badStop (hstop : s.urxn = 9) : urxBit false s = { s with ferr := true, urxn := 0 } :=
  urxBit_stopBit hstop false

theorem urxBit_goodStop (hstop : s.urxn = 9) : urxBit true s = { pushByte s.urxsr s with urxn := 0 } :=
  urxBit_stopBit hstop true

end

/-- Settles O30: one clause for each value `URXN` takes (R33), the stop-bit position divided by the sample and the queue's room. -/
theorem urxBitCases : Obligations.UrxBitCases := by
  intro x s
  rw [runEvent_urxBit]
  refine ⟨?idle, ?start, ?data, ?badStop, ?room, ?full⟩
  case idle => rintro hbetween rfl; rw [urxBit_idle hbetween]
  case start => rintro hbetween rfl; rw [urxBit_start hbetween]
  case data =>
    intro hfirst hlast
    obtain ⟨v, hbit, hv⟩ := urxBit_data_bits hfirst hlast x
    exact ⟨v, congrArg _ hbit, hv⟩
  case badStop => rintro hstop rfl; rw [urxBit_badStop hstop]
  case room => rintro hstop rfl hroom; rw [urxBit_goodStop hstop, pushByte_of_room _ hroom]
  case full => rintro hstop rfl hfull; rw [urxBit_goodStop hstop, pushByte_of_full _ hfull]

/-! ### A line held at one level (R223) -/

theorem runEvents_replicate_urxBit (n : Nat) (x : Bool) (s : State) :
    runEvents (List.replicate n (.urxBit x)) s = .next (urxSamples (List.replicate n x) s) := by
  rw [← List.map_replicate, runEvents_urxBits]

/-- Ten low bit times are a start bit, eight zeros and a bad stop bit (R220, R221). -/
theorem urxSamples_low_character {s : State} (hbetween : s.urxn = 0) :
    urxSamples (List.replicate 10 false) s = { s with urxsr := 0x00, ferr := true } := by
  have hlevels : List.replicate 10 false = [false] ++ (List.range' 0 8).map (0x00 : Byte).getLsbD ++ [false] := rfl
  have hstart : urxSamples [false] s = { s with urxn := 1 } := urxBit_start hbetween
  have hdata := urxSamples_data 0x00 (s := { s with urxn := 1 }) (Nat.zero_add 8) rfl nofun
  have hstop : urxSamples [false] { s with urxsr := 0x00, urxn := 9 } =
      { s with urxsr := 0x00, ferr := true, urxn := 0 } := urxBit_badStop (s := { s with urxsr := 0x00, urxn := 9 }) rfl
  rw [hlevels, urxSamples_append, urxSamples_append, hstart, hdata, hstop, ← hbetween]

theorem urxSamples_low (n : Nat) {s : State} (hbetween : s.urxn = 0) :
    urxSamples (List.replicate (10 * (n + 1)) false) s = { s with urxsr := 0x00, ferr := true } := by
  induction n generalizing s with
  | zero => exact urxSamples_low_character hbetween
  | succ n ih =>
    have hlength : 10 * (n + 1 + 1) = 10 + 10 * (n + 1) := by omega
    rw [hlength, List.replicate_add, urxSamples_append, urxSamples_low_character hbetween,
      ih (s := { s with urxsr := 0x00, ferr := true }) hbetween]

theorem urxSamples_high (n : Nat) {s : State} (hbetween : s.urxn = 0) : urxSamples (List.replicate n true) s = s := by
  induction n with
  | zero => rfl
  | succ n ih =>
    calc urxSamples (List.replicate (n + 1) true) s
        = urxSamples (List.replicate n true) (urxBit true s) := rfl
      _ = s := by rw [urxBit_idle hbetween, ih]

/-- Settles O32: ten low bit times leave the receiver between two characters, so they repeat; a high one changes nothing. -/
theorem breakGivesFramingErrors : Obligations.BreakGivesFramingErrors := fun n s hbetween =>
  ⟨by rw [runEvents_replicate_urxBit, urxSamples_low n hbetween],
    by rw [runEvents_replicate_urxBit, urxSamples_high n hbetween]⟩

/-! ### Frames that arrive unattended (R218, R222) -/

/-- `deliver_of_unattended` for an instruction that brings at least one byte: `URXSR` ends with the last one. -/
theorem exec_of_unattended {s : State} (h : Unattended s) {i : Instr} {bytes : List Byte}
    (hexec : exec i s = deliver bytes s) (hsome : bytes ≠ []) :
    exec i s = .next { s with urxsr := bytes.getLast?.getD 0x00, rxfifo := queueAfter s.rxfifo bytes,
                              ovr := overrunAfter s.rxfifo bytes s.ovr } := by
  have hlast : bytes.getLast?.getD s.urxsr = bytes.getLast?.getD 0x00 := by
    rw [List.getLast?_eq_some_getLast hsome, Option.getD_some, Option.getD_some]
  rw [hexec, deliver_of_unattended bytes h, hlast]

/-- Settles O51: each of the four instructions is the delivery of its frame's bytes. -/
theorem unattendedFramesAreQueued : Obligations.UnattendedFramesAreQueued := by
  intro s p rest crc len v g h c hc
  simp only [List.mem_cons, List.not_mem_nil, or_false] at hc
  obtain rfl | rfl | rfl | rfl := hc
  · exact exec_of_unattended h (exec_frameShort p crc s) (List.cons_ne_nil _ _)
  · exact exec_of_unattended h (exec_frameLong len rest s) (List.cons_ne_nil _ _)
  · exact exec_of_unattended h (exec_fwVersionResponse v s) (List.cons_ne_nil _ _)
  · exact exec_of_unattended h (exec_getValuesResponse g s) (List.cons_ne_nil _ _)

/-! ### Full duplex (R227) -/

/-- A character message is a run of samples, whether its ten bits are a well-formed character or not. -/
theorem runMessage_char_receiveOnly {bytes : List Byte} {s t : State} (h : runMessage .char bytes s = .next t) :
    ReceiveOnly s t := by
  cases hdecode : decode .char bytes with
  | error e =>
    simp only [runMessage, hdecode, undecoded] at h
    cases hw : charContainer bytes with
    | none => simp [hw] at h
    | some w =>
      simp only [hw, Host.Outcome.next.injEq] at h
      exact h ▸ urxSamples_receiveOnly _ s
  | ok i =>
    rw [runMessage_of_decode hdecode] at h
    have hformat : formatOf i = .char := (encodes_of_decode hdecode).format
    cases i with
    | uartChar d =>
      rw [exec_uartChar, Host.Outcome.next.injEq] at h
      exact h ▸ urxSamples_receiveOnly _ s
    | _ => cases hformat

/-- Settles O52: the transmit steps are those that `SameReceive` was shown for, the receive steps change the receive path only. -/
theorem pathsAreIndependent : Obligations.PathsAreIndependent := by
  constructor
  · rintro e s t h (rfl | rfl | rfl | ⟨f, bytes, p, rfl, hdecode⟩)
    · exact txEmit_sameReceive h
    · exact txFinish_sameReceive h
    · cases h
      exact utxBit_sameReceive s
    · rw [runEvent_message, runMessage_of_decode hdecode, exec_txFrame] at h
      exact sendFrame_sameReceive h
  · rintro e s t h (⟨x, rfl⟩ | rfl | rfl | rfl | rfl | ⟨bytes, rfl⟩ | ⟨bytes, rfl⟩ |
      ⟨f, bytes, rfl, hdecode | hdecode⟩)
    · cases h
      exact (urxBit_receiveOnly x s).transmit
    · exact (rxPop_receiveOnly h).transmit
    · exact (rxLinkErr_receiveOnly h).transmit
    · cases h
      exact receiveOnly_update.transmit
    · exact (rxTick_receiveOnly h).transmit
    · rw [runEvent_frame] at h
      exact (deliver_receiveOnly h).transmit
    · exact (runMessage_char_receiveOnly h).transmit
    · rw [runEvent_message, runMessage_of_decode hdecode] at h
      exact (execRxStart_receiveOnly h).transmit
    · rw [runEvent_message, runMessage_of_decode hdecode] at h
      exact (execRxRead_receiveOnly h).transmit

end Sys2Proof.Machine
end

section
/-! Statements of spec/44_payloads.md: the integers of the payloads (R242), the layout of the get-values response (R244), and the
commands as frames that are sent and arrive (R245 to R251, log entry 11). -/

namespace Sys2Proof.Machine

/-! ### Payload integers (R242) -/

/-- The most significant byte holds the sign (R242). -/
theorem halfOf_toInt (a b : Byte) :
    (halfOf a b).toInt =
      if a.toNat < 128 then ((a.toNat * 256 + b.toNat : Nat) : Int) else ((a.toNat * 256 + b.toNat : Nat) : Int) - 65536 := by
  have hb := b.isLt
  have hsign : 2 * (a.toNat * 2 ^ 8 + b.toNat) < 2 ^ 16 ↔ a.toNat < 128 := by omega
  rw [BitVec.toInt_eq_toNat_cond, halfOf_toNat]
  exact if_congr hsign rfl rfl

/-- The most significant byte holds the sign (R242). -/
theorem wordOf_toInt (a b c d : Byte) :
    (wordOf a b c d).toInt =
      if a.toNat < 128 then ((a.toNat * 2 ^ 24 + b.toNat * 2 ^ 16 + c.toNat * 2 ^ 8 + d.toNat : Nat) : Int)
      else ((a.toNat * 2 ^ 24 + b.toNat * 2 ^ 16 + c.toNat * 2 ^ 8 + d.toNat : Nat) : Int) - 2 ^ 32 := by
  have hb := b.isLt
  have hc := c.isLt
  have hd := d.isLt
  have hsign : 2 * (a.toNat * 2 ^ 24 + b.toNat * 2 ^ 16 + c.toNat * 2 ^ 8 + d.toNat) < 2 ^ 32 ↔ a.toNat < 128 := by omega
  rw [BitVec.toInt_eq_toNat_cond, wordOf_toNat]
  exact if_congr hsign rfl rfl

/-- Settles O21: the signed value splits at the sign of the first byte, and reading a field back inverts writing it. -/
theorem payloadIntegersAreSigned : Obligations.PayloadIntegersAreSigned :=
  ⟨halfOf_toInt, wordOf_toInt, fun v => take16_be16 v [], fun v => take32_be32 v []⟩

/-! ### The get-values response (R244) -/

/-- Settles O20: every field before a given one has a fixed number of bytes, so each slice of the response computes. -/
theorem getValuesLayout : Obligations.GetValuesLayout := fun v =>
  ⟨0x04 :: valuesBytes v, rfl, congrArg (· + 1) (valuesBytes_length v), rfl,
    rfl, rfl, rfl, rfl, rfl, rfl, rfl, rfl, rfl, rfl, rfl, rfl, rfl, rfl, rfl, rfl, rfl, rfl⟩

/-! ### Requests are sent (R240, R245 to R251, R152) -/

/-- A command with one field fits a short frame (R93, R247 to R250). -/
theorem fieldCommand_fits (id : Byte) (w : Word) : (id :: be32 w).length ≤ Config.maxPayload := by
  rw [List.length_cons, be32_length]
  decide

/-- A command whose meaning is TX_FRAME of its payload has the outcomes of TX_FRAME (R152, log entry 11). -/
theorem exec_request {i : Instr} {p : List Byte} {s : State} (hexec : exec i s = exec (.txFrame p) s)
    (hfits : p.length ≤ Config.maxPayload) :
    (s.txstate = .idle → exec i s =
      .next { s with txframe := Memory.holding (encodeFrame p), txtotal := frameTotal p.length, txpos := 0,
                     txstate := .sending, answer := .status .ok }) ∧
    (s.txstate = .sending → exec i s = .next { s with answer := .status .transportError }) := by
  rw [hexec]
  exact ⟨exec_txFrame_of_idle hfits, exec_txFrame_of_sending hfits⟩

/-- Settles O23: each of the seven requests is TX_FRAME of a payload that fits. -/
theorem commandRequestsAreSent : Obligations.CommandRequestsAreSent := by
  intro s w c hc
  simp only [List.mem_cons, List.not_mem_nil, or_false] at hc
  obtain rfl | rfl | rfl | rfl | rfl | rfl | rfl := hc
  · exact exec_request (exec_fwVersionRequest s) (by decide)
  · exact exec_request (exec_getValuesRequest s) (by decide)
  · exact exec_request (exec_cmdSetDuty w s) (fieldCommand_fits _ w)
  · exact exec_request (exec_cmdSetCurrent w s) (fieldCommand_fits _ w)
  · exact exec_request (exec_cmdSetBrakeCurrent w s) (fieldCommand_fits _ w)
  · exact exec_request (exec_cmdSetRpm w s) (fieldCommand_fits _ w)
  · exact exec_request (exec_cmdKeepalive s) (by decide)

/-! ### Responses arrive (R245, R244, R178) -/

/-- An instruction that is the frame of a payload arriving ends a fresh operation with `OK`: the checksum field of the frame is
the payload's checksum (R92, R178). -/
theorem exec_response {i : Instr} {p : List Byte} {s : State} (hfresh : FreshReceive s)
    (hexec : exec i s = deliver (encodeFrame p) s) (hfits : p.length ≤ Config.maxPayload) :
    exec i s =
      .next { s with
        urxsr := 0x03, rxbuf := Memory.holding (encodeFrame p), rxcnt := BitVec.ofNat 9 (p.length + 5),
        rxlen := BitVec.ofNat 8 p.length, rxtotal := BitVec.ofNat 9 (p.length + 5), crccalc := crc16 p,
        crcrecv := crc16 p, rxerr := .ok, rxstate := .done } := by
  have hframe : exec i s = exec (.frameShort p (crc16 p)) s := hexec.trans (exec_frameShort p (crc16 p) s).symm
  rw [hframe, frameShortIsDeframed p (crc16 p) s hfits hfresh, if_pos rfl]
  rfl

/-- Settles O50: each response is the frame of its payload arriving. -/
theorem commandResponsesAreDeframed : Obligations.CommandResponsesAreDeframed := by
  intro s v g hfresh c hc
  simp only [List.mem_cons, List.not_mem_nil, or_false] at hc
  obtain rfl | rfl := hc
  · exact exec_response hfresh (exec_fwVersionResponse v s) (by decide : (3 : Nat) ≤ Config.maxPayload)
  · exact exec_response hfresh (exec_getValuesResponse g s) (by decide : (59 : Nat) ≤ Config.maxPayload)

end Sys2Proof.Machine
end

section
/-! Statements of spec/60_exceptions.md: what STAT_READ shows of the block (R274, R46), what `raise` writes (R268), and that no
instruction gets stuck (R269). -/

namespace Sys2Proof.Machine

/-! ### STAT_READ returns the STATUS view (R274, R46) -/

/-- A flag stands at its own bit, and every other bit is clear (R46). -/
theorem flagAt_getLsbD (i : Nat) (flag : Bool) {k : Nat} (hk : k < 8) :
    (flagAt i flag).getLsbD k = (decide (k = i) && flag) := by
  obtain hlt | rfl | hgt := lt_trichotomy k i
  · simp [flagAt, hlt, hlt.ne]
  · simp [flagAt, hk]
  · simp [flagAt, hgt.ne', Nat.sub_ne_zero_of_lt hgt]

/-- `STATUS`, bit by bit: the six flags from bit 0 up, then zeros (R46). -/
theorem statusView_getLsbD (s : State) {k : Nat} (hk : k < 8) :
    (statusView s).getLsbD k = [txBusy s, rxBusy s, rxDone s, rxNotEmpty s, s.ferr, s.ovr].getD k false := by
  simp only [statusView, BitVec.getLsbD_or, flagAt_getLsbD _ _ hk]
  interval_cases k <;> simp

theorem txBusy_iff (s : State) : txBusy s = true ↔ s.txstate = .sending := decide_eq_true_iff

theorem rxBusy_iff (s : State) : rxBusy s = true ↔ s.rxstate = .receiving := decide_eq_true_iff

theorem rxDone_iff (s : State) : rxDone s = true ↔ s.rxstate = .done := decide_eq_true_iff

theorem rxNotEmpty_iff (s : State) : rxNotEmpty s = true ↔ s.rxfifo ≠ [] := by
  simp [rxNotEmpty]

theorem statusView_reset : statusView State.reset = 0x00 := by decide

theorem exec_statRead (s : State) : exec .statRead s = .next { s with answer := .statusView (statusView s) } := rfl

/-- Settles O1: the view has one flag at each of bits 0 to 5, and each flag says what R46 says of it. -/
theorem statReadReturnsStatus : Obligations.StatReadReturnsStatus := by
  refine ⟨decodeHostOp_encode (i := .statRead) rfl, fun s => ⟨statusView s, exec_statRead s, ?_⟩⟩
  have hbit (k : Nat) (hk : k < 8) := statusView_getLsbD s hk
  refine ⟨?_, ?_, ?_, ?_, hbit 4 (by decide), hbit 5 (by decide), hbit 6 (by decide), hbit 7 (by decide),
    fun hreset => hreset ▸ statusView_reset⟩
  · rw [hbit 0 (by decide)]
    exact txBusy_iff s
  · rw [hbit 1 (by decide)]
    exact rxBusy_iff s
  · rw [hbit 2 (by decide)]
    exact rxDone_iff s
  · rw [hbit 3 (by decide)]
    exact rxNotEmpty_iff s

/-! ### `raise` ends the operation (R268) -/

theorem raise_none (x : Status) (s : State) : raise x none s = { s with rxerr := x, rxstate := .done } := rfl

theorem raise_some (x : Status) (computed received : Half) (s : State) :
    raise x (some (computed, received)) s =
      { s with rxerr := x, crccalc := computed, crcrecv := received, rxstate := .done } := rfl

/-- Settles O36: the two forms of `raise`, without and with the checksums. -/
theorem raiseEndsOperation : Obligations.RaiseEndsOperation := fun x computed received s =>
  ⟨raise_none x s, raise_some .checksumMismatch computed received s⟩

/-! ### Every instruction completes (R269) -/

/-- Settles O59: a request is a TX_FRAME, which answers in every state; a response is a frame that arrives, and under the
invariant neither the arriving bytes nor RX_READ meet a buffer index that holds no value. -/
theorem everyInstructionCompletes : Obligations.EveryInstructionCompletes := by
  intro i s hinv
  cases i with
  | statRead | crcInit | crcByte _ | crcRead | reserved7 | reserved8 | reserved9 | reservedA | reservedB | reservedC
  | reservedD | reservedE | reservedF | uartChar _ => exact ⟨_, rfl⟩
  | txFrame payload => exact exec_txFrame payload s ▸ sendFrame_answers _ s
  | cmdSetDuty duty => exact exec_cmdSetDuty duty s ▸ sendFrame_answers _ s
  | cmdSetCurrent current => exact exec_cmdSetCurrent current s ▸ sendFrame_answers _ s
  | cmdSetBrakeCurrent current => exact exec_cmdSetBrakeCurrent current s ▸ sendFrame_answers _ s
  | cmdSetRpm rpm => exact exec_cmdSetRpm rpm s ▸ sendFrame_answers _ s
  | cmdKeepalive => exact exec_cmdKeepalive s ▸ sendFrame_answers _ s
  | rxStart => exact execRxStart_answers s
  | rxRead => exact execRxRead_answers hinv.rx
  | frameShort payload crc => exact exec_frameShort payload crc s ▸ deliver_answers_of_inv _ hinv
  | frameLong len rest => exact exec_frameLong len rest s ▸ deliver_answers_of_inv _ hinv
  | cmdFwVersion response =>
    cases response with
    | none => exact exec_fwVersionRequest s ▸ sendFrame_answers _ s
    | some v => exact exec_fwVersionResponse v s ▸ deliver_answers_of_inv _ hinv
  | cmdGetValues response =>
    cases response with
    | none => exact exec_getValuesRequest s ▸ sendFrame_answers _ s
    | some v => exact exec_getValuesResponse v s ▸ deliver_answers_of_inv _ hinv

end Sys2Proof.Machine
end
